-- ==== Sys2Proof/Word.lean ====
section
/-! DEFINITION. The word types of the block: 32-bit registers and command words, one-byte bit items, and cells. -/

namespace Sys2Proof

/-- A register value or a command word: `bits(32)` (10_state.md R22, 30_encoding.md R90). -/
abbrev Word := BitVec 32

/-- The byte that carries one bit item, and the byte the BCH unit packs (00_scope.md R11). -/
abbrev Byte := BitVec 8

/-- One real component of a cell, as the bit pattern of an IEEE 754 binary32 number: the spec's
default for the open parameter `Sample` (00_scope.md R8, 20_memory.md R73). -/
abbrev Sample := BitVec 32

/-- A cell item: a pair of samples, one complex number (00_scope.md R11). -/
structure Cell where
  re : Sample
  im : Sample
  deriving DecidableEq, Repr, Inhabited

end Sys2Proof
end

