-- ==== Sys2Proof/Config.lean ====
section
/-! DEFINITION. What is fixed for a run: the enumerations (00_scope.md R16), the scalar parameters (R8), the shape
of the table ROM (R7), the contents the spec leaves open (opaque constants), and the free values of the tone-reservation
unit (46_papr_tr.md R244). -/

namespace Sys2Proof.Config

/-! ## Enumerations, in the order of 00_scope.md R16; the values named are those of its table, the default of `Enums` -/

/-- Frame size: `SHORT` = 0, `NORMAL` = 1. -/
inductive FrameSize where
  | short
  | normal
  deriving DecidableEq, Repr, Inhabited

/-- Code rate, twelve members `C2_15 .. C13_15` = 0 .. 11. -/
inductive CodeRate where
  | c2_15 | c3_15 | c4_15 | c5_15 | c6_15 | c7_15 | c8_15 | c9_15 | c10_15 | c11_15 | c12_15 | c13_15
  deriving DecidableEq, Repr, Inhabited

/-- LDPC type: `TYPE_A` = 0, `TYPE_B` = 1. -/
inductive LdpcType where
  | typeA
  | typeB
  deriving DecidableEq, Repr, Inhabited

/-- PLP FEC mode: `PLP_FEC_NONE` = 0, `PLP_FEC_CRC32` = 1, `PLP_FEC_BCH` = 2; 3 is reserved. -/
inductive FecMode where
  | none
  | crc32
  | bch
  deriving DecidableEq, Repr, Inhabited

/-- FFT size: `FFT_8K` = 0, `FFT_16K` = 1, `FFT_32K` = 2; 3 is reserved. -/
inductive Fft where
  | k8
  | k16
  | k32
  deriving DecidableEq, Repr, Inhabited

/-- Modulation order: six members 0 .. 5; 6 and 7 are reserved. -/
inductive Modulation where
  | qpsk | qam16 | qam64 | qam256 | qam1024 | qam4096
  deriving DecidableEq, Repr, Inhabited

/-- PAPR mode: `PAPR_OFF` = 0, `PAPR_TR` = 1, `PAPR_ACE` = 2, `PAPR_BOTH` = 3. -/
inductive PaprMode where
  | off
  | tr
  | ace
  | both
  deriving DecidableEq, Repr, Inhabited

/-- Frequency-interleaver mode: `FI_PREAMBLE_ONLY` = 0, `FI_ALL_SYMBOLS` = 1. -/
inductive FiMode where
  | preambleOnly
  | allSymbols
  deriving DecidableEq, Repr, Inhabited

/-- Frame-length mode: `FLM_TIME_ALIGNED` = 0, `FLM_SYMBOL_ALIGNED` = 1. -/
inductive FrameLengthMode where
  | timeAligned
  | symbolAligned
  deriving DecidableEq, Repr, Inhabited

/-- Symbol type: `PREAMBLE_SYMBOL` = 0, `SBS_SYMBOL` = 1, `DATA_SYMBOL` = 2. -/
inductive SymType where
  | preamble
  | sbs
  | data
  deriving DecidableEq, Repr, Inhabited

/-- Time-interleaver mode: `TI_OFF` = 0; 1 to 3 are not described by the source. -/
inductive TiMode where
  | off
  deriving DecidableEq, Repr, Inhabited

/-- The assignment of values to members, the open parameter `Enums` of 00_scope.md R16 (92_eei_decisions.md D9), as one table
per enumeration from the values of the field to the members: entry `v` is the member whose value is `v`. Where a field
has values that name no member (reserved, or not described), the entry of such a value is `none`. Guard intervals and
pilot patterns, which the source does not name, are numbered `GI_0 ..` and `SP_0 ..`. Log entry 3. -/
structure Enums where
  frameSize : Vector FrameSize 2
  codeRate : Vector (Option CodeRate) 16
  ldpcType : Vector LdpcType 2
  fecMode : Vector (Option FecMode) 4
  fft : Vector (Option Fft) 4
  guardInterval : Vector (Option (Fin 12)) 16
  pilotPattern : Vector (Option (Fin 16)) 32
  modulation : Vector (Option Modulation) 8
  paprMode : Vector PaprMode 4
  fiMode : Vector FiMode 2
  frameLengthMode : Vector FrameLengthMode 2
  /-- Symbol types stand in geometry records, by name; no register holds one, so no rule reads their values. -/
  symType : Vector SymType 3
  tiMode : Vector (Option TiMode) 4
  deriving DecidableEq, Repr, Inhabited

/-- The default of the parameter, the table of 00_scope.md R16. -/
def Enums.default : Enums where
  frameSize := #v[.short, .normal]
  codeRate :=
    #v[some .c2_15, some .c3_15, some .c4_15, some .c5_15, some .c6_15, some .c7_15, some .c8_15, some .c9_15,
      some .c10_15, some .c11_15, some .c12_15, some .c13_15, none, none, none, none]
  ldpcType := #v[.typeA, .typeB]
  fecMode := #v[some .none, some .crc32, some .bch, none]
  fft := #v[some .k8, some .k16, some .k32, none]
  guardInterval :=
    #v[some 0, some 1, some 2, some 3, some 4, some 5, some 6, some 7, some 8, some 9, some 10, some 11,
      none, none, none, none]
  pilotPattern :=
    #v[some 0, some 1, some 2, some 3, some 4, some 5, some 6, some 7, some 8, some 9, some 10, some 11,
      some 12, some 13, some 14, some 15,
      none, none, none, none, none, none, none, none, none, none, none, none, none, none, none, none]
  modulation :=
    #v[some .qpsk, some .qam16, some .qam64, some .qam256, some .qam1024, some .qam4096, none, none]
  paprMode := #v[.off, .tr, .ace, .both]
  fiMode := #v[.preambleOnly, .allSymbols]
  frameLengthMode := #v[.timeAligned, .symbolAligned]
  symType := #v[.preamble, .sbs, .data]
  tiMode := #v[some .off, none, none, none]

/-- A value per frame size. -/
structure PerFrameSize (α : Type) where
  short : α
  normal : α
  deriving DecidableEq, Repr, Inhabited

/-- The entry of a table indexed by frame size. -/
def PerFrameSize.get {α : Type} (t : PerFrameSize α) : FrameSize → α
  | .short => t.short
  | .normal => t.normal

/-- A value per FFT size. -/
structure PerFft (α : Type) where
  k8 : α
  k16 : α
  k32 : α
  deriving DecidableEq, Repr, Inhabited

/-- The entry of a table indexed by FFT size. -/
def PerFft.get {α : Type} (t : PerFft α) : Fft → α
  | .k8 => t.k8
  | .k16 => t.k16
  | .k32 => t.k32

/-! ## Scalar constants the source gives (00_scope.md R8) -/

/-- `CRC32_POLY`, the coefficients of `x^31 .. x^0`; the coefficient of `x^32` is implied (41_bch.md R124). -/
def crc32Poly : Word := 0x00210801#32

/-- `BCH_R[fs]`: 168 parity bits for SHORT, 192 for NORMAL. -/
def bchR : PerFrameSize Nat := ⟨168, 192⟩

/-- `LDPC_GROUP`: the rows of the LDPC table are reused every 360 bits. -/
def ldpcGroup : Nat := 360

/-- `L1B_BITS`: 168 field bits and 32 CRC bits (44_frame_mapper.md R185). -/
def l1bBits : Nat := 200

/-- `TR_EXIT_MARGIN` = 0.01, as the denominator of one hundredth. -/
def trExitMarginDen : Nat := 100

/-! ## Parameters that stay open (00_scope.md R8, R16) -/

/-- The open parameters of the model beside the table ROM: the scalars and the assignment of the enumerants. They are fixed
for a run; no step writes them. -/
structure Params where
  /-- `Enums`, open; default in `Enums.default`. -/
  enums : Enums
  /-- `CRC32_INIT`, open; default in `Params.default`. -/
  crc32Init : Word
  /-- `CRC32_XOROUT`. -/
  crc32Xorout : Word
  /-- `FI_MAX_STATES[fft]`, also `papr_fft_size` (46_papr_tr.md R240). -/
  fiMaxStates : PerFft Nat
  /-- `TR_RELAXED_EXIT`: the exit test of 46_papr_tr.md R252 uses the `+0.01` threshold. -/
  trRelaxedExit : Bool
  deriving DecidableEq, Repr, Inhabited

/-- The spec's defaults (00_scope.md R8, R16): `CRC32_INIT` and `FI_MAX_STATES` are the spec's general knowledge. PRESUMED,
log entry 2. -/
def Params.default : Params where
  enums := Enums.default
  crc32Init := 0xFFFFFFFF#32
  crc32Xorout := 0x00000000#32
  fiMaxStates := ⟨8192, 16384, 32768⟩
  trRelaxedExit := true

/-! ## The table ROM (00_scope.md R7) -/

/-- The eight geometry fields, the argument of `GEOM` (10_state.md R36); guard interval and pilot pattern are the
twelve and sixteen members the source does not name. -/
structure GeomKey where
  fft : Fft
  guardInterval : Fin 12
  pilotPattern : Fin 16
  reducedCarriers : BitVec 3
  numPreambleSyms : BitVec 4
  numPayloadSyms : BitVec 11
  sbsFirst : BitVec 1
  l1bMode : BitVec 3
  deriving DecidableEq, Repr, Inhabited

/-- The geometry record, "OFDM Frame Geometry" (10_state.md R37). -/
structure Geometry where
  symbols : Nat
  frameCells : List Nat
  symType : List SymType
  totalCells : Nat
  nFp : Nat
  nP : Nat
  nSbs : Nat
  nData : Nat
  carriers : List Nat
  deriving DecidableEq, Repr, Inhabited

/-- The type-dependent dimensions of an FEC parameter record: exactly one group is meaningful
(10_state.md R32, 47_external_stages.md R270). -/
inductive LdpcDims where
  | typeA (q1 q2 m1 m2 : Nat)
  | typeB (q : Nat)
  deriving DecidableEq, Repr, Inhabited

/-- The FEC parameter record of 47_external_stages.md R270; read by the host alone. -/
structure FecParams where
  kbch : Nat
  nbch : Nat
  dims : LdpcDims
  rateIndex : Nat
  deriving DecidableEq, Repr, Inhabited

/-- The update function `FI_STEP[fft][par]` of the main generator (45_freq_interleaver.md R214): the default
shift-register step over the taps of `FI_LOGIC`, or any function on `bits(w)` written out as its table of values. -/
inductive FiStep where
  | lfsr
  | table (next : List Nat)
  deriving DecidableEq, Repr, Inhabited

/-- The update functions of an even and of an odd pass. -/
structure FiSteps where
  even : FiStep
  odd : FiStep
  deriving DecidableEq, Repr, Inhabited

/-- The table ROM `Tables` (00_scope.md R7). A table indexed by a finite set is its list of key and entry
pairs; a key that is not listed has no entry. Log entries 1, 3. -/
structure Tables where
  /-- `FRAME_BITS[fs]`. -/
  frameBits : PerFrameSize Nat
  /-- `BCH_FACTORS[fs][0..11]`, each a polynomial over GF(2) with bit `i` the coefficient of `x^i`. -/
  bchFactors : PerFrameSize (Vector Nat 12)
  /-- `LDPC_ROWS[fs][rate]`. -/
  ldpcRows : List ((FrameSize × CodeRate) × List (List Nat))
  /-- `BIL_PERM[fs][rate][mod]`. -/
  bilPerm : List ((FrameSize × CodeRate × Modulation) × List Nat)
  /-- `GEOM(g)`. -/
  geom : List (GeomKey × Geometry)
  /-- `FI_LOGIC[fft]`, the taps of the main generator. -/
  fiLogic : PerFft (List Nat)
  /-- `FI_BITPERM_EVEN[fft]`. -/
  fiBitpermEven : PerFft (List Nat)
  /-- `FI_BITPERM_ODD[fft]`. -/
  fiBitpermOdd : PerFft (List Nat)
  /-- `FI_STEP[fft][parity]`. -/
  fiStep : PerFft FiSteps
  /-- `FI_SYMOFF[fft](k)` for `k = 0, 1, ..`; undefined past the list's end. -/
  fiSymoff : PerFft (List Nat)
  /-- `TR_TONES[fft]`. -/
  trTones : PerFft (List Nat)
  /-- `PILOT_DX[pp]`. -/
  pilotDx : List (Fin 16 × Nat)
  /-- `PILOT_DY[pp]`. -/
  pilotDy : List (Fin 16 × Nat)
  /-- `FEC_PARAMS(fs, rate)`, for the host. -/
  fecParams : List ((FrameSize × CodeRate) × FecParams)
  deriving DecidableEq, Repr, Inhabited

/-! The contents the spec does not give: constants with no body (92_eei_decisions.md D10). -/

/-- The twelve factor polynomials of each frame size. -/
opaque romBchFactors : PerFrameSize (Vector Nat 12)
/-- The LDPC row tables. -/
opaque romLdpcRows : List ((FrameSize × CodeRate) × List (List Nat))
/-- The bit-interleaver permutations. -/
opaque romBilPerm : List ((FrameSize × CodeRate × Modulation) × List Nat)
/-- The frame geometries. -/
opaque romGeom : List (GeomKey × Geometry)
/-- The tap lists of the main generator. -/
opaque romFiLogic : PerFft (List Nat)
/-- The even-role bit positions. -/
opaque romFiBitpermEven : PerFft (List Nat)
/-- The odd-role bit positions. -/
opaque romFiBitpermOdd : PerFft (List Nat)
/-- The second generator's sequences. -/
opaque romFiSymoff : PerFft (List Nat)
/-- The reserved tones. -/
opaque romTrTones : PerFft (List Nat)
/-- The x of each pilot pattern. -/
opaque romPilotDx : List (Fin 16 × Nat)
/-- The y of each pilot pattern. -/
opaque romPilotDy : List (Fin 16 × Nat)
/-- `rate_index` of the one FEC record the source gives (47_external_stages.md R272). -/
opaque romC6RateIndex : Nat
/-- The other rows of the FEC parameter table. -/
opaque romFecParams : List ((FrameSize × CodeRate) × FecParams)

/-- The table ROM of the machine: the values and defaults the spec gives, and the open contents (log entry 2). -/
def rom : Tables where
  frameBits := ⟨16200, 64800⟩
  bchFactors := romBchFactors
  ldpcRows := romLdpcRows
  bilPerm := romBilPerm
  geom := romGeom
  fiLogic := romFiLogic
  fiBitpermEven := romFiBitpermEven
  fiBitpermOdd := romFiBitpermOdd
  fiStep := ⟨⟨.lfsr, .lfsr⟩, ⟨.lfsr, .lfsr⟩, ⟨.lfsr, .lfsr⟩⟩
  fiSymoff := romFiSymoff
  trTones := romTrTones
  pilotDx := romPilotDx
  pilotDy := romPilotDy
  fecParams := ((.normal, .c6_15), ⟨25728, 25920, .typeB 108, romC6RateIndex⟩) :: romFecParams

/-! ## Free values of the tone-reservation unit (46_papr_tr.md R244) -/

/-- The vectors of 46_papr_tr.md R248 whose entries a realisation holds as samples, and the output. -/
inductive TrVector where
  | y | r | rNew | v | c | ctemp | magnitude
  deriving DecidableEq, Repr, Inhabited

/-- One component of one entry of one vector. -/
structure TrSlot where
  vec : TrVector
  index : Nat
  imag : Bool
  deriving DecidableEq, Repr, Inhabited

/-- The sample a realisation holds for an exact real number of the reference, in its `use`-th reduction. The
argument `exact` is the predicate that the exact number alone satisfies. The spec fixes no format of the arithmetic,
no rounding and no order of summation, so nothing is known of the answer. Log entry 10. -/
opaque sampleOf (use : Nat) (slot : TrSlot) (exact : ℝ → Prop) : Sample

/-- The sample that stands where the spec calls the output unspecified: a symbol to be reduced that holds a
component that is not a finite number (46_papr_tr.md R244). Log entry 11. -/
opaque unspecifiedSample (use : Nat) (slot : TrSlot) : Sample

end Sys2Proof.Config
end

