-- ==== Sys2Proof/Syntax.lean ====
section
/-! DEFINITION. The sixteen commands of spec/opcode_table.json, one constructor each (30_encoding.md R93). The only
operand a command carries is the repeat count `n` of a streaming command (R92). -/

namespace Sys2Proof

/-- A command. The count of a streaming command is a number of firings; `WellFormed` bounds it by the sixteen bits of
the field `n` (30_encoding.md R92). -/
inductive Instr where
  /-- `SYS.NOP`, 40_system_commands.md R109. -/
  | sysNop
  /-- `SYS.RESET`, 40_system_commands.md R110. -/
  | sysReset
  /-- `BCH.BUILD`, 41_bch.md R120. -/
  | bchBuild
  /-- `BCH.ENC n`, 41_bch.md R130. -/
  | bchEnc (n : Nat)
  /-- `LDPC.BUILD`, 42_ldpc.md R150. -/
  | ldpcBuild
  /-- `LDPC.ENC n`, 42_ldpc.md R155. -/
  | ldpcEnc (n : Nat)
  /-- `BIL.BUILD`, 43_bit_interleaver.md R170. -/
  | bilBuild
  /-- `BIL.PERM n`, 43_bit_interleaver.md R173. -/
  | bilPerm (n : Nat)
  /-- `FM.BUILD`, 44_frame_mapper.md R180. -/
  | fmBuild
  /-- `FM.L1B`, 44_frame_mapper.md R185. -/
  | fmL1b
  /-- `FM.L1D`, 44_frame_mapper.md R190. -/
  | fmL1d
  /-- `FM.MAP n`, 44_frame_mapper.md R195. -/
  | fmMap (n : Nat)
  /-- `FI.BUILD`, 45_freq_interleaver.md R210. -/
  | fiBuild
  /-- `FI.SYM n`, 45_freq_interleaver.md R220. -/
  | fiSym (n : Nat)
  /-- `TR.BUILD`, 46_papr_tr.md R240. -/
  | trBuild
  /-- `TR.SYM n`, 46_papr_tr.md R245. -/
  | trSym (n : Nat)
  deriving DecidableEq, Repr

end Sys2Proof
end

