-- ==== Sys2Proof/WellFormed.lean ====
section
/-! DEFINITION. The one check a command admits: a repeat count fits the sixteen bits of the field `n`
(30_encoding.md R91, R92). -/

namespace Sys2Proof

/-- The greatest repeat count plus one: `0 <= n <= 65535` (30_encoding.md R92). -/
def countBound : Nat := 65536

/-- Whether every operand of a command fits its field. -/
def Instr.wellFormed : Instr → Bool
  | .bchEnc n => n < countBound
  | .ldpcEnc n => n < countBound
  | .bilPerm n => n < countBound
  | .fmMap n => n < countBound
  | .fiSym n => n < countBound
  | .trSym n => n < countBound
  | .sysNop => true
  | .sysReset => true
  | .bchBuild => true
  | .ldpcBuild => true
  | .bilBuild => true
  | .fmBuild => true
  | .fmL1b => true
  | .fmL1d => true
  | .fiBuild => true
  | .trBuild => true

end Sys2Proof
end

