-- ==== Sys2Proof/Decode.lean ====
section
/-! DEFINITION. Decoding and encoding of the command word, format `C` (30_encoding.md R91, R93, R95). -/

namespace Sys2Proof

/-- Why a word encodes no command, the four classes of 30_encoding.md R95. -/
inductive DecodeError where
  /-- The field `unit` is 7 to 15. -/
  | noSuchUnit
  /-- The unit has no such `op`. -/
  | noSuchOp
  /-- The field `zero` is not 0x00. -/
  | nonZeroZeroField
  /-- A command that takes no count has a non-zero `n`. -/
  | nonZeroCount
  deriving DecidableEq, Repr

/-- The field `unit`, bits 31:28. -/
def fieldUnit (w : Word) : Nat := (w.extractLsb' 28 4).toNat

/-- The field `op`, bits 27:24. -/
def fieldOp (w : Word) : Nat := (w.extractLsb' 24 4).toNat

/-- The field `zero`, bits 23:16. -/
def fieldZero (w : Word) : Nat := (w.extractLsb' 16 8).toNat

/-- The field `n`, bits 15:0, zero-extended (30_encoding.md R92). -/
def fieldCount (w : Word) : Nat := (w.extractLsb' 0 16).toNat

/-- A row of the opcode map: a command without a count, or one that takes it. -/
inductive OpRow where
  | plain (i : Instr)
  | counted (i : Nat → Instr)

/-- The opcode map of 30_encoding.md R93 over the fields `unit` and `op`. -/
def opRow (unit op : Nat) : Except DecodeError OpRow :=
  match unit, op with
  | 0, 0 => .ok (.plain .sysNop)
  | 0, 1 => .ok (.plain .sysReset)
  | 1, 0 => .ok (.plain .bchBuild)
  | 1, 1 => .ok (.counted .bchEnc)
  | 2, 0 => .ok (.plain .ldpcBuild)
  | 2, 1 => .ok (.counted .ldpcEnc)
  | 3, 0 => .ok (.plain .bilBuild)
  | 3, 1 => .ok (.counted .bilPerm)
  | 4, 0 => .ok (.plain .fmBuild)
  | 4, 1 => .ok (.plain .fmL1b)
  | 4, 2 => .ok (.plain .fmL1d)
  | 4, 3 => .ok (.counted .fmMap)
  | 5, 0 => .ok (.plain .fiBuild)
  | 5, 1 => .ok (.counted .fiSym)
  | 6, 0 => .ok (.plain .trBuild)
  | 6, 1 => .ok (.counted .trSym)
  | u, _ => if u ≤ 6 then .error .noSuchOp else .error .noSuchUnit

/-- The decoder, total on 32-bit words (30_encoding.md R91, R95). -/
def decode (w : Word) : Except DecodeError Instr :=
  match opRow (fieldUnit w) (fieldOp w) with
  | .error e => .error e
  | .ok row =>
    if fieldZero w ≠ 0 then .error .nonZeroZeroField
    else
      match row with
      | .counted mk => .ok (mk (fieldCount w))
      | .plain i => if fieldCount w ≠ 0 then .error .nonZeroCount else .ok i

/-- A command word from its fields (30_encoding.md R91). -/
def packWord (unit op n : Nat) : Word :=
  BitVec.ofNat 4 unit ++ BitVec.ofNat 4 op ++ (0#8) ++ BitVec.ofNat 16 n

/-- The word of a command: its row's `match`, with the count in bits 15:0 (30_encoding.md R93, R97). -/
def encode : Instr → Word
  | .sysNop => packWord 0 0 0
  | .sysReset => packWord 0 1 0
  | .bchBuild => packWord 1 0 0
  | .bchEnc n => packWord 1 1 n
  | .ldpcBuild => packWord 2 0 0
  | .ldpcEnc n => packWord 2 1 n
  | .bilBuild => packWord 3 0 0
  | .bilPerm n => packWord 3 1 n
  | .fmBuild => packWord 4 0 0
  | .fmL1b => packWord 4 1 0
  | .fmL1d => packWord 4 2 0
  | .fmMap n => packWord 4 3 n
  | .fiBuild => packWord 5 0 0
  | .fiSym n => packWord 5 1 n
  | .trBuild => packWord 6 0 0
  | .trSym n => packWord 6 1 n

/-- The command word whose low `nbits` bits are `w`; the bits above are 0. The port moves whole words, so no byte order
is observable (20_memory.md R73). -/
def tableWord (nbits w : Nat) : Word := BitVec.ofNat 32 (w % 2 ^ nbits)

/-- The instruction the decoder reads from an opcode-table word. -/
def decodeTableWord (nbits w : Nat) : Option Instr :=
  match decode (tableWord nbits w) with
  | .ok i => some i
  | .error _ => none

end Sys2Proof
end

