-- ==== Sys2Proof/Machine/State.lean ====
section
/-! DEFINITION. The architectural state of the block (10_state.md), the host's side of a run (20_memory.md R84, R86),
the reasons a step can stop, and the state after reset (10_state.md R65). -/

namespace Sys2Proof.Machine

open Sys2Proof.Config

/-! ## Names of registers (10_state.md R23) -/

/-- The six units of the block (00_scope.md R1). -/
inductive UnitId where
  | bch | ldpc | bil | fm | fi | tr
  deriving DecidableEq, Repr

/-- The three units that own a geometry group (10_state.md R36). -/
inductive GeomUnit where
  | fm | fi | tr
  deriving DecidableEq, Repr

/-- The eight registers of a geometry group, in the order of their offsets (10_state.md R36). -/
inductive GeomField where
  | fftSize | guardInterval | pilotPattern | reducedCarriers
  | numPreambleSyms | numPayloadSyms | sbsFirst | l1bMode
  deriving DecidableEq, Repr

/-- The registers of the L1-Basic record bank, 0x50 .. 0x6E (10_state.md R39). -/
inductive L1bField where
  | version | mimoPilotEncoding | llsFlag | timeInfoFlag | returnChannel | paprReduction
  | frameLengthMode | frameLength | excessSamples | timeOffset | additionalSamples | numSubframes
  | preambleNumSymbols | preambleReducedCarriers | detailContentTag | detailSizeBytes | detailFecType
  | detailAdditionalParityMode | detailTotalCells | firstSubMimo | firstSubMiso | firstSubFftSize
  | firstSubReducedCarriers | firstSubGuardInterval | firstSubNumOfdmSymbols | firstSubScatteredPilotPattern
  | firstSubScatteredPilotBoost | firstSubSbsFirst | firstSubSbsLast | reservedHi | reservedLo
  deriving DecidableEq, Repr

/-- The registers of kind `RW` (10_state.md R23). -/
inductive RwReg where
  | bchFrameSize | bchKbch | bchFecMode
  | ldpcFrameSize | ldpcRate | ldpcNbch | ldpcType | ldpcQ | ldpcQ1 | ldpcQ2 | ldpcM1 | ldpcM2
  | bilFrameSize | bilRate | bilMod
  | geom (u : GeomUnit) (f : GeomField)
  | fmTiMode | fmTiDepth | fmL1bCells | fmL1dCells
  | l1b (f : L1bField)
  | fiMode
  | trPaprMode | trNumIter | trVclip | trShiftOffset
  deriving DecidableEq, Repr

/-- The registers of kind `RO` (10_state.md R23). -/
inductive RoReg where
  | status | errinfo | errval
  | bchBlkcnt | ldpcBlkcnt | bilBlkcnt
  | fmFramecnt | fiSymidx | fiFramecnt | trSymidx | trFramecnt
  deriving DecidableEq, Repr

/-- What a register index names (10_state.md R22, R23). -/
inductive RegSel where
  | cmd
  | rw (r : RwReg)
  | ro (r : RoReg)
  | unimplemented
  deriving DecidableEq, Repr

/-! ## Errors (60_exceptions.md R291) -/

/-- The seven error classes of 60_exceptions.md R291; no other error exists. -/
inductive ErrClass where
  | cfgError | illegalCommand | underrun | badItem | notBuilt | unimplemented | badReg
  deriving DecidableEq, Repr

/-! ## Queues and host actions (10_state.md R60, 20_memory.md R84) -/

/-- The bit input queues: `bch.in` (0), `ldpc.in` (2), `bil.in` (4). -/
inductive BitIn where
  | bch | ldpc | bil
  deriving DecidableEq, Repr

/-- The bit output queues: `bch.out` (1), `ldpc.out` (3), `bil.out` (5), `fm.l1b_out` (6). -/
inductive BitOut where
  | bch | ldpc | bil | fmL1b
  deriving DecidableEq, Repr

/-- The cell input queues: `fm.l1b_in` (7), `fm.l1d_in` (8), `fm.plp_in` (9), `fi.in` (11), `tr.in` (13). -/
inductive CellIn where
  | fmL1b | fmL1d | fmPlp | fi | tr
  deriving DecidableEq, Repr

/-- The cell output queues: `fm.out` (10), `fi.out` (12), `tr.out` (14). -/
inductive CellOut where
  | fm | fi | tr
  deriving DecidableEq, Repr

/-- One action of the host (20_memory.md R84). A push into an output queue, a pop from an input queue and a push of the
wrong kind of item are not moves of the model (40_system_commands.md R107), and no term of this type is one. -/
inductive HostAction where
  /-- `RegRead(i)`. -/
  | regRead (i : BitVec 8)
  /-- `RegWrite(i, v)`; with `i` = 0x00 it is the command `v`. -/
  | regWrite (i : BitVec 8) (v : Word)
  /-- `HostPush(q, s)` of bit items. -/
  | pushBits (q : BitIn) (s : List Byte)
  /-- `HostPush(q, s)` of cell items. -/
  | pushCells (q : CellIn) (s : List Cell)
  /-- `HostPop(q, m)` from a bit queue. -/
  | popBits (q : BitOut) (m : Nat)
  /-- `HostPop(q, m)` from a cell queue. -/
  | popCells (q : CellOut) (m : Nat)
  deriving DecidableEq, Repr

/-- What a host action returned (20_memory.md R86). -/
inductive HostResult where
  | regValue (i : BitVec 8) (v : Word)
  | bits (q : BitOut) (items : List Byte)
  | cells (q : CellOut) (items : List Cell)
  deriving DecidableEq, Repr

/-- The host's side of a run, the model's own fields: the actions it has still to perform, the next one first, and what
its reads and pops returned so far, the oldest first. Log entry 4. -/
structure HostSide where
  script : List HostAction
  results : List HostResult
  deriving DecidableEq, Repr

/-! ## Units -/

/-- The configuration registers of unit 1 (10_state.md R30). -/
structure BchRegs where
  frameSize : BitVec 1
  kbch : BitVec 16
  fecMode : BitVec 2
  deriving DecidableEq, Repr

/-- The derived state of unit 1 (10_state.md R31). -/
structure BchDerived where
  /-- `num_parity_bits`. -/
  r : Nat
  /-- Coefficients of `x^(r-1) .. x^0` of the generator. -/
  polynome : BitVec r
  /-- The 256-entry division table. -/
  lut : List (BitVec r)
  /-- The 256-entry CRC-32 table. -/
  crcLut : List Word
  kbch : Nat
  mode : FecMode
  nfec : Nat
  deriving DecidableEq, Repr

/-- Unit 1, BCH: registers, `BCH_BLKCNT`, derived state, the working registers of 10_state.md R20 and the queues. -/
structure BchUnit where
  regs : BchRegs
  blkcnt : Word
  der : BchDerived
  /-- `bch.reg`, `r` bits, held in the low bits of the widest case. Log entry 7. -/
  reg : BitVec 192
  /-- `bch.crc`. -/
  crc : Word
  inq : List Byte
  outq : List Byte
  deriving DecidableEq, Repr

/-- The configuration registers of unit 2 (10_state.md R32). -/
structure LdpcRegs where
  frameSize : BitVec 1
  rate : BitVec 4
  nbch : BitVec 16
  type : BitVec 1
  q : BitVec 16
  q1 : BitVec 16
  q2 : BitVec 16
  m1 : BitVec 16
  m2 : BitVec 16
  deriving DecidableEq, Repr

/-- The derived state of unit 2 (10_state.md R33): `lut` has one list of codeword-bit indices per parity bit. -/
structure LdpcDerived where
  n : Nat
  nbch : Nat
  p : Nat
  lut : List (List Nat)
  deriving DecidableEq, Repr

/-- Unit 2, LDPC. -/
structure LdpcUnit where
  regs : LdpcRegs
  blkcnt : Word
  der : LdpcDerived
  inq : List Byte
  outq : List Byte
  deriving DecidableEq, Repr

/-- The configuration registers of unit 3 (10_state.md R34). -/
structure BilRegs where
  frameSize : BitVec 1
  rate : BitVec 4
  mod : BitVec 3
  deriving DecidableEq, Repr

/-- The derived state of unit 3 (10_state.md R35). -/
structure BilDerived where
  n : Nat
  perm : List Nat
  deriving DecidableEq, Repr

/-- Unit 3, BIL. -/
structure BilUnit where
  regs : BilRegs
  blkcnt : Word
  der : BilDerived
  inq : List Byte
  outq : List Byte
  deriving DecidableEq, Repr

/-- A geometry register group (10_state.md R36). -/
structure GeomRegs where
  fftSize : BitVec 2
  guardInterval : BitVec 4
  pilotPattern : BitVec 5
  reducedCarriers : BitVec 3
  numPreambleSyms : BitVec 4
  numPayloadSyms : BitVec 11
  sbsFirst : BitVec 1
  l1bMode : BitVec 3
  deriving DecidableEq, Repr

/-- The L1-Basic record bank (10_state.md R39), one register per field. -/
structure L1Basic where
  version : BitVec 3
  mimoPilotEncoding : BitVec 1
  llsFlag : BitVec 1
  timeInfoFlag : BitVec 2
  returnChannel : BitVec 1
  paprReduction : BitVec 2
  frameLengthMode : BitVec 1
  frameLength : BitVec 10
  excessSamples : BitVec 13
  timeOffset : BitVec 16
  additionalSamples : BitVec 7
  numSubframes : BitVec 8
  preambleNumSymbols : BitVec 3
  preambleReducedCarriers : BitVec 3
  detailContentTag : BitVec 2
  detailSizeBytes : BitVec 13
  detailFecType : BitVec 3
  detailAdditionalParityMode : BitVec 2
  detailTotalCells : BitVec 19
  firstSubMimo : BitVec 1
  firstSubMiso : BitVec 2
  firstSubFftSize : BitVec 2
  firstSubReducedCarriers : BitVec 3
  firstSubGuardInterval : BitVec 4
  firstSubNumOfdmSymbols : BitVec 11
  firstSubScatteredPilotPattern : BitVec 5
  firstSubScatteredPilotBoost : BitVec 3
  firstSubSbsFirst : BitVec 1
  firstSubSbsLast : BitVec 1
  reservedHi : BitVec 16
  reservedLo : BitVec 32
  deriving DecidableEq, Repr

/-- The construction registers of unit 4 (10_state.md R38) with its geometry group. -/
structure FmRegs where
  geom : GeomRegs
  tiMode : BitVec 2
  tiDepth : BitVec 16
  l1bCells : BitVec 19
  l1dCells : BitVec 19
  deriving DecidableEq, Repr

/-- The derived state of unit 4 (10_state.md R40). -/
structure FmDerived where
  geom : Geometry
  l1bCells : Nat
  l1dCells : Nat
  plpCells : Nat
  deriving DecidableEq, Repr

/-- Unit 4, FM. -/
structure FmUnit where
  regs : FmRegs
  l1 : L1Basic
  framecnt : Word
  der : FmDerived
  l1bOut : List Byte
  l1bIn : List Cell
  l1dIn : List Cell
  plpIn : List Cell
  outq : List Cell
  deriving DecidableEq, Repr

/-- The configuration registers of unit 5 (10_state.md R41). -/
structure FiRegs where
  geom : GeomRegs
  mode : BitVec 1
  deriving DecidableEq, Repr

/-- The eight address vectors of one symbol (10_state.md R42). -/
structure FiVectors where
  hevenFP : List Nat
  hoddFP : List Nat
  hevenP : List Nat
  hoddP : List Nat
  hevenSBS : List Nat
  hoddSBS : List Nat
  heven : List Nat
  hodd : List Nat
  deriving DecidableEq, Repr

/-- The derived state of unit 5 (10_state.md R42): one record of vectors per symbol of the frame. -/
structure FiDerived where
  geom : Geometry
  fft : Fft
  mode : FiMode
  vectors : List FiVectors
  deriving DecidableEq, Repr

/-- Unit 5, FI. -/
structure FiUnit where
  regs : FiRegs
  symidx : Word
  framecnt : Word
  der : FiDerived
  /-- `fi.R`, the generator's working register (45_freq_interleaver.md R214), a value of `bits(w)` whose width `w` is
  ROM data. -/
  lfsr : Nat
  inq : List Cell
  outq : List Cell
  deriving DecidableEq, Repr

/-- The configuration registers of unit 6 (10_state.md R43). -/
structure TrRegs where
  geom : GeomRegs
  paprMode : BitVec 2
  numIter : BitVec 16
  vclip : Word
  shiftOffset : BitVec 11
  deriving DecidableEq, Repr

/-- The derived state of unit 6 (10_state.md R44). `dx`, `dy` and `vClip` are `none` where the ROM or the register
defines none, which `TR.BUILD` admits only outside mode `PAPR_TR` (46_papr_tr.md R241); no rule reads them there. `vClip` is in units of
`2^-149`, of which every finite binary32 number is a whole multiple. -/
structure TrDerived where
  geom : Geometry
  fft : Fft
  mode : PaprMode
  /-- `papr_fft_size`. -/
  n : Nat
  tones : List Nat
  nTr : Nat
  dx : Option Nat
  dy : Option Nat
  numIter : Nat
  vClip : Option Int
  offset : Nat
  deriving DecidableEq, Repr

/-- The scratch vectors of unit 6 (10_state.md R44, 46_papr_tr.md R248). -/
structure TrScratch where
  r : List Cell
  rNew : List Cell
  v : List Cell
  c : List Cell
  ctemp : List Cell
  magnitude : List Sample
  deriving DecidableEq, Repr

/-- Unit 6, TR. `freeUses` is the model's own field: how many free values have been drawn, the argument that makes the
next one fresh. Log entry 10. -/
structure TrUnit where
  regs : TrRegs
  symidx : Word
  framecnt : Word
  der : TrDerived
  scratch : TrScratch
  freeUses : Nat
  inq : List Cell
  outq : List Cell
  deriving DecidableEq, Repr

/-! ## The machine -/

/-- The state of the model: the read-only tables and parameters (00_scope.md R7, R8, R16; log entry 1), the status and
error registers (10_state.md R25, R26), the six units, and the host's side of the run. -/
structure State where
  tables : Tables
  params : Params
  status : Word
  errinfo : Word
  errval : Word
  bch : BchUnit
  ldpc : LdpcUnit
  bil : BilUnit
  fm : FmUnit
  fi : FiUnit
  tr : TrUnit
  host : HostSide
  deriving DecidableEq, Repr

/-- The reasons the machine stops with a fault: none. Every hazard of the block has a defined outcome (70_reset_and_hazards.md,
section 3) and every error is recorded, not stopped on (60_exceptions.md R292). -/
inductive Fault where
  deriving DecidableEq, Repr

/-- The reasons a step has no meaning. No arm of `exec` and no host action gives one. -/
inductive Refusal where
  /-- A command that has no meaning in the model yet; raised by `exec`'s arm alone. Safe: nothing is claimed of it. -/
  | notModelled (mnemonic : String)
  deriving DecidableEq, Repr

/-! ## Reset (10_state.md R65, 70_reset_and_hazards.md R315) -/

/-- A geometry record no BUILD has written. Log entry 6. -/
def emptyGeometry : Geometry := ⟨0, [], [], 0, 0, 0, 0, 0, []⟩

/-- A geometry group after reset. -/
def resetGeomRegs : GeomRegs := ⟨0#2, 0#4, 0#5, 0#3, 0#4, 0#11, 0#1, 0#3⟩

/-- The L1-Basic record bank after reset. -/
def resetL1Basic : L1Basic :=
  ⟨0#3, 0#1, 0#1, 0#2, 0#1, 0#2, 0#1, 0#10, 0#13, 0#16, 0#7, 0#8, 0#3, 0#3, 0#2, 0#13, 0#3, 0#2, 0#19, 0#1, 0#2,
    0#2, 0#3, 0#4, 0#11, 0#5, 0#3, 0#1, 0#1, 0#16, 0#32⟩

/-- Unit 1 after reset. The derived state and working registers are unspecified and unreachable (R65); the values
named here are the model's. Log entries 6, 7. -/
def resetBch : BchUnit where
  regs := ⟨0#1, 0#16, 0#2⟩
  blkcnt := 0#32
  der := ⟨0, 0#0, [], [], 0, .none, 0⟩
  reg := 0#192
  crc := 0#32
  inq := []
  outq := []

/-- Unit 2 after reset. -/
def resetLdpc : LdpcUnit where
  regs := ⟨0#1, 0#4, 0#16, 0#1, 0#16, 0#16, 0#16, 0#16, 0#16⟩
  blkcnt := 0#32
  der := ⟨0, 0, 0, []⟩
  inq := []
  outq := []

/-- Unit 3 after reset. -/
def resetBil : BilUnit where
  regs := ⟨0#1, 0#4, 0#3⟩
  blkcnt := 0#32
  der := ⟨0, []⟩
  inq := []
  outq := []

/-- Unit 4 after reset. -/
def resetFm : FmUnit where
  regs := ⟨resetGeomRegs, 0#2, 0#16, 0#19, 0#19⟩
  l1 := resetL1Basic
  framecnt := 0#32
  der := ⟨emptyGeometry, 0, 0, 0⟩
  l1bOut := []
  l1bIn := []
  l1dIn := []
  plpIn := []
  outq := []

/-- Unit 5 after reset. -/
def resetFi : FiUnit where
  regs := ⟨resetGeomRegs, 0#1⟩
  symidx := 0#32
  framecnt := 0#32
  der := ⟨emptyGeometry, .k8, .preambleOnly, []⟩
  lfsr := 0
  inq := []
  outq := []

/-- Unit 6 after reset. -/
def resetTr : TrUnit where
  regs := ⟨resetGeomRegs, 0#2, 0#16, 0#32, 0#11⟩
  symidx := 0#32
  framecnt := 0#32
  der := ⟨emptyGeometry, .k8, .off, 0, [], 0, none, none, 0, none, 0⟩
  scratch := ⟨[], [], [], [], [], []⟩
  freeUses := 0
  inq := []
  outq := []

/-- The machine right after power-on reset: every register, flag and counter 0, every queue empty, no unit built
(10_state.md R65); the table ROM and the parameters are those of `Config` (70_reset_and_hazards.md R316), and the host
has nothing to do. -/
def State.reset : State where
  tables := Config.rom
  params := Params.default
  status := 0#32
  errinfo := 0#32
  errval := 0#32
  bch := resetBch
  ldpc := resetLdpc
  bil := resetBil
  fm := resetFm
  fi := resetFi
  tr := resetTr
  host := ⟨[], []⟩

end Sys2Proof.Machine
end

