-- ==== Sys2Proof/Machine/Flags.lean ====
section
/-! DEFINITION. The flags of `STATUS` (10_state.md R25) and the error record (10_state.md R26, 60_exceptions.md R291). -/

namespace Sys2Proof.Machine

/-- The number of a unit, 1 to 6 (00_scope.md R1). -/
def UnitId.number : UnitId → BitVec 4
  | .bch => 1#4
  | .ldpc => 2#4
  | .bil => 3#4
  | .fm => 4#4
  | .fi => 5#4
  | .tr => 6#4

/-- The position of a unit's BUILT flag in `STATUS` (10_state.md R25). -/
def UnitId.builtBit : UnitId → Nat
  | .bch => 0
  | .ldpc => 1
  | .bil => 2
  | .fm => 3
  | .fi => 4
  | .tr => 5

/-- The code of an error class, the value of `ERRINFO[3:0]` (60_exceptions.md R291). -/
def ErrClass.code : ErrClass → BitVec 4
  | .cfgError => 1#4
  | .illegalCommand => 2#4
  | .underrun => 3#4
  | .badItem => 4#4
  | .notBuilt => 5#4
  | .unimplemented => 6#4
  | .badReg => 7#4

/-- The position of an error class's sticky flag in `STATUS` (60_exceptions.md R291). -/
def ErrClass.statusBit : ErrClass → Nat
  | .cfgError => 8
  | .illegalCommand => 9
  | .underrun => 10
  | .badItem => 11
  | .notBuilt => 12
  | .unimplemented => 13
  | .badReg => 14

/-- A word with bit `k` set. -/
def setFlag (w : Word) (k : Nat) : Word := w ||| (1#32 <<< k)

/-- A word with bit `k` cleared. -/
def clearFlag (w : Word) (k : Nat) : Word := w &&& ~~~(1#32 <<< k)

/-- Whether a unit's BUILT flag is 1. -/
def State.isBuilt (s : State) (u : UnitId) : Bool := s.status.getLsbD u.builtBit

/-- The state with a unit's BUILT flag set. -/
def State.setBuilt (s : State) (u : UnitId) : State := { s with status := setFlag s.status u.builtBit }

/-- The state with a unit's BUILT flag cleared. -/
def State.clearBuilt (s : State) (u : UnitId) : State := { s with status := clearFlag s.status u.builtBit }

/-- Whether an error class's sticky flag is 1. -/
def State.hasError (s : State) (e : ErrClass) : Bool := s.status.getLsbD e.statusBit

/-- `ERRINFO[3:0]`, the cause code of the first error since reset (10_state.md R26). -/
def State.errCode (s : State) : BitVec 4 := s.errinfo.extractLsb' 0 4

/-- `ERRINFO[7:4]`, the unit number of the first error since reset. -/
def State.errUnit (s : State) : BitVec 4 := s.errinfo.extractLsb' 4 4

end Sys2Proof.Machine
end

