-- ==== Sys2Proof/Machine/Ops.lean ====
section
/-! DEFINITION. The operations every unit shares: raising an error (60_exceptions.md R292), the two command skeletons
(40_system_commands.md R111, R112), bit packing (00_scope.md R10), polynomials over GF(2) (R12), the CRC-32
(41_bch.md R124, R135) and permutations. -/

namespace Sys2Proof.Machine

open Sys2Proof.Config

/-! ## Errors -/

/-- `raise E(unit)` (60_exceptions.md R292): the sticky flag is set, and if no error has been recorded since reset the
cause, the unit and `val` are recorded. This is all that taking an error does; there is no trap entry and nothing to
return from (60_exceptions.md R306). -/
def raise (e : ErrClass) (unit : BitVec 4) (val : Word) (s : State) : State :=
  if s.errCode = 0#4 then
    { s with
      status := setFlag s.status e.statusBit
      errinfo := (unit ++ e.code).setWidth 32
      errval := val }
  else { s with status := setFlag s.status e.statusBit }

/-! ## Command skeletons -/

/-- The streaming skeleton (40_system_commands.md R111): the three checks in their fixed order, then the firings.
`w` is the command word; `short` says that an input queue holds too few items; `bad` that an item to be consumed is not
a bit item; `fire` is the state after all the firings. -/
def streaming (u : UnitId) (w : Word) (short bad : Bool) (fire : State → State) (s : State) : State :=
  if s.isBuilt u then
    if short then raise .underrun u.number w s
    else if bad then raise .badItem u.number w s
    else fire s
  else raise .notBuilt u.number w s

/-- The BUILD skeleton (40_system_commands.md R112): the BUILT flag is cleared; a configuration that fails a check
(`none`) raises `CfgError`; one that passes is installed and the flag set. -/
def building {δ : Type} (u : UnitId) (w : Word) (derived : Option δ) (install : δ → State → State) (s : State) : State :=
  match derived with
  | none => raise .cfgError u.number w (s.clearBuilt u)
  | some d => (install d (s.clearBuilt u)).setBuilt u

/-! ## Bit items and packing -/

/-- The bit item of a bit: a byte holding 0 or 1 (20_memory.md R72). -/
def bitItem (b : Bool) : Byte := if b then 1#8 else 0#8

/-- The bit of a bit item, the byte's bit 0 (20_memory.md R72). -/
def itemBit (x : Byte) : Bool := x.getLsbD 0

/-- Whether a byte is a bit item (00_scope.md R11). -/
def isBitItem (x : Byte) : Bool := x == 0#8 || x == 1#8

/-- Whether, among the first `n` items of a queue, one is not a bit item (40_system_commands.md R111, step 3). -/
def hasBadItem (q : List Byte) (n : Nat) : Bool := (q.take n).any (fun x => !isBitItem x)

/-- `emit_msb(v)`: the bits of `v`, the most significant first (00_scope.md R10). -/
def emitMsb {n : Nat} (v : BitVec n) : List Byte := (List.range n).map (fun i => bitItem (v.getMsbD i))

/-- `pack_msb`: the number whose binary digits are the items, the first the most significant (00_scope.md R10). -/
def packMsb (items : List Byte) : Nat := items.foldl (fun acc x => 2 * acc + (itemBit x).toNat) 0

/-- A block cut into bytes of eight items, the first item of each being bit 7 (20_memory.md R71). -/
def packBytes : List Byte → List Byte
  | a :: b :: c :: d :: e :: f :: g :: h :: rest => BitVec.ofNat 8 (packMsb [a, b, c, d, e, f, g, h]) :: packBytes rest
  | _ => []

/-! ## Polynomials over GF(2) (00_scope.md R12)

A polynomial is a number whose bit `i` is the coefficient of `x^i`; addition is exclusive or. -/

/-- The sum of the products of the coefficients of `x^0 .. x^(k-1)` of `a` with `b`. -/
def pmulLow (a b : Nat) : Nat → Nat
  | 0 => 0
  | k + 1 => pmulLow a b k ^^^ (if a.testBit k then b <<< k else 0)

/-- `pmul(a, b)`, the carry-less product. -/
def pmul (a b : Nat) : Nat := pmulLow a b (a.log2 + 1)

/-- `k` steps of long division by `g` of degree `d`, the top one clearing the coefficient of `x^(d+k-1)`. -/
def pmodSteps (g d : Nat) : Nat → Nat → Nat
  | 0, a => a
  | k + 1, a => pmodSteps g d k (if a.testBit (d + k) then a ^^^ (g <<< k) else a)

/-- `pmod(a, g)` for `g != 0`, the remainder of long division. -/
def pmod (a g : Nat) : Nat := pmodSteps g g.log2 (a.log2 + 1 - g.log2) a

/-! ## Byte-wise division -/

/-- One step of the shift-and-subtract construction (41_bch.md R123): shift left, and subtract the divisor if the bit
shifted out was 1. -/
def divStep {r : Nat} (poly t : BitVec r) : BitVec r := if t.getMsbD 0 then (t <<< 1) ^^^ poly else t <<< 1

/-- The entry for byte `b` of the table of remainders by shift-and-subtract (41_bch.md R123, R124). -/
def divEntry {r : Nat} (poly : BitVec r) (b : Byte) : BitVec r := (divStep poly)^[8] (b.setWidth r <<< (r - 8))

/-- One step of table-driven division: shift the register by a byte and subtract the entry that the byte shifted out
and the next input byte select (41_bch.md R132, R133). -/
def tableStep {r : Nat} (lut : List (BitVec r)) (reg : BitVec r) (byte : Byte) : BitVec r :=
  (reg <<< 8) ^^^ lut.getD (reg.extractLsb' (r - 8) 8 ^^^ byte).toNat 0

/-- Table-driven division of a sequence of bytes. -/
def tableDivide {r : Nat} (lut : List (BitVec r)) (init : BitVec r) (bytes : List Byte) : BitVec r :=
  bytes.foldl (tableStep lut) init

/-! ## CRC-32 -/

/-- The 256-entry CRC-32 table (41_bch.md R124). -/
def crcTable : List Word := (List.range 256).map (fun b => divEntry crc32Poly (BitVec.ofNat 8 b))

/-- One bit of the bit-serial CRC-32 (41_bch.md R135). -/
def crcBitStep (c : Word) (x : Byte) : Word :=
  if c.getLsbD 31 != itemBit x then (c <<< 1) ^^^ crc32Poly else c <<< 1

/-- `crc32_bits(s)` (41_bch.md R135). -/
def crc32Bits (p : Params) (s : List Byte) : Word := s.foldl crcBitStep p.crc32Init ^^^ p.crc32Xorout

/-! ## Permutations -/

/-- The set of the values of a list, value `i` as bit `i`. -/
def valueMask (l : List Nat) : Nat := l.foldl (fun m i => m ||| 1 <<< i) 0

/-- Whether a list is a permutation of `0 .. n-1`: it has `n` entries and every one of these values. -/
def isPerm (l : List Nat) (n : Nat) : Bool := l.length == n && valueMask l == 1 <<< n - 1

/-- Gather: output position `i` takes the input item at position `idx[i]`. -/
def gather {α : Type} (dflt : α) (s : List α) (idx : List Nat) : List α := idx.map (fun i => s.getD i dflt)

/-- The inverse of a permutation: entry `v` is the position of value `v` (45_freq_interleaver.md R218). -/
def inversePerm (l : List Nat) : List Nat := (List.range l.length).map (fun v => l.idxOf v)

/-! ## Counters (10_state.md R47) -/

/-- The symbol and frame counters after one firing: the symbol index advances and goes back to 0 after the last symbol,
when the frame counter advances, wrapping modulo `2^32`. -/
def nextSymidx (symbols : Nat) (idx : Word) : Word := if idx.toNat + 1 = symbols then 0#32 else idx + 1#32

/-- The frame counter after a firing at symbol index `idx`. -/
def nextFramecnt (symbols : Nat) (idx cnt : Word) : Word := if idx.toNat + 1 = symbols then cnt + 1#32 else cnt

end Sys2Proof.Machine
end

