-- ==== Sys2Proof/Machine/Operands.lean ====
section
/-! DEFINITION. The implicit operands of the commands (30_encoding.md R92): register fields read as enumerants
(00_scope.md R16), the geometry group and the lookup and check of its record (10_state.md R36, R37), the binary32
pattern of a sample (20_memory.md R73). -/

namespace Sys2Proof.Machine

open Sys2Proof.Config

/-! ## Enumerants, by the assignment `Enums` (00_scope.md R16)

Each function reads a register field as the member that the assignment gives its value; `none` where it names none. -/

/-- Frame size of a field. -/
def frameSizeOf (e : Enums) (b : BitVec 1) : FrameSize := e.frameSize[b.toNat]'b.isLt

/-- Code rate of a field. -/
def codeRateOf (e : Enums) (b : BitVec 4) : Option CodeRate := e.codeRate[b.toNat]'b.isLt

/-- LDPC type of a field. -/
def ldpcTypeOf (e : Enums) (b : BitVec 1) : LdpcType := e.ldpcType[b.toNat]'b.isLt

/-- PLP FEC mode of a field. -/
def fecModeOf (e : Enums) (b : BitVec 2) : Option FecMode := e.fecMode[b.toNat]'b.isLt

/-- FFT size of a field. -/
def fftOf (e : Enums) (b : BitVec 2) : Option Fft := e.fft[b.toNat]'b.isLt

/-- Guard interval of a field. -/
def guardIntervalOf (e : Enums) (b : BitVec 4) : Option (Fin 12) := e.guardInterval[b.toNat]'b.isLt

/-- Pilot pattern of a field. -/
def pilotPatternOf (e : Enums) (b : BitVec 5) : Option (Fin 16) := e.pilotPattern[b.toNat]'b.isLt

/-- Modulation order of a field. -/
def modulationOf (e : Enums) (b : BitVec 3) : Option Modulation := e.modulation[b.toNat]'b.isLt

/-- PAPR mode of a field. -/
def paprModeOf (e : Enums) (b : BitVec 2) : PaprMode := e.paprMode[b.toNat]'b.isLt

/-- Frequency-interleaver mode of a field. -/
def fiModeOf (e : Enums) (b : BitVec 1) : FiMode := e.fiMode[b.toNat]'b.isLt

/-- Frame-length mode of a field. -/
def frameLengthModeOf (e : Enums) (b : BitVec 1) : FrameLengthMode := e.frameLengthMode[b.toNat]'b.isLt

/-- Time-interleaver mode of a field. -/
def tiModeOf (e : Enums) (b : BitVec 2) : Option TiMode := e.tiMode[b.toNat]'b.isLt

/-! ## Geometry -/

/-- The eight geometry fields, if each is legal: FFT size, guard interval and pilot pattern name members (with the default
assignment `FFT_SIZE != 3`, `GUARD_INTERVAL <= 11`, `PILOT_PATTERN <= 15`), at least one preamble and one payload symbol
(44_frame_mapper.md R181 (a)). -/
def geomKeyOf (e : Enums) (g : GeomRegs) : Option GeomKey :=
  if g.numPreambleSyms = 0#4 ∨ g.numPayloadSyms = 0#11 then none
  else
    match fftOf e g.fftSize, guardIntervalOf e g.guardInterval, pilotPatternOf e g.pilotPattern with
    | some fft, some gi, some pp =>
      some
        { fft := fft
          guardInterval := gi
          pilotPattern := pp
          reducedCarriers := g.reducedCarriers
          numPreambleSyms := g.numPreambleSyms
          numPayloadSyms := g.numPayloadSyms
          sbsFirst := g.sbsFirst
          l1bMode := g.l1bMode }
    | _, _, _ => none

/-- The ceiling of the regime a symbol has by its place and type (45_freq_interleaver.md R221). -/
def ceilingOf (geo : Geometry) (l : Nat) : Nat :=
  match geo.symType.getD l .data with
  | .preamble => if l = 0 then geo.nFp else geo.nP
  | .sbs => geo.nSbs
  | .data => geo.nData

/-- 10_state.md R37 (b): the types of the symbols of a frame. -/
def symTypesOk (k : GeomKey) (geo : Geometry) : Bool :=
  let pre := k.numPreambleSyms.toNat
  (List.range geo.symbols).all (fun l => (geo.symType.getD l .data == .preamble) == decide (l < pre))
    && geo.symType.getD (geo.symbols - 1) .data == .sbs
    && (if k.sbsFirst = 1#1 then geo.symType.getD pre .data == .sbs
        else geo.symType.getD pre .data == .data || pre == geo.symbols - 1)

/-- Well-formedness of a geometry record (10_state.md R37): the counts and lengths, then (a) to (d). -/
def geometryOk (p : Params) (k : GeomKey) (geo : Geometry) : Bool :=
  geo.symbols == k.numPreambleSyms.toNat + k.numPayloadSyms.toNat
    && geo.frameCells.length == geo.symbols && geo.symType.length == geo.symbols && geo.carriers.length == geo.symbols
    && geo.frameCells.sum == geo.totalCells
    && symTypesOk k geo
    && (List.range geo.symbols).all (fun l => geo.frameCells.getD l 0 == ceilingOf geo l)
    && [geo.nFp, geo.nP, geo.nSbs, geo.nData].all (fun c => decide (1 ≤ c) && decide (c ≤ p.fiMaxStates.get k.fft))
    && geo.carriers.all (fun c => decide (1 ≤ c))

/-- The geometry of a unit: its fields in range, `GEOM(g)` with an entry, and the entry well-formed; a record that is
not well-formed counts as no entry (10_state.md R37). -/
def geometryOf (t : Tables) (p : Params) (g : GeomRegs) : Option (GeomKey × Geometry) :=
  match geomKeyOf p.enums g with
  | none => none
  | some k =>
    match t.geom.lookup k with
    | none => none
    | some geo => if geometryOk p k geo then some (k, geo) else none

/-! ## Samples (20_memory.md R73: sign bit 31, exponent 30:23, fraction 22:0) -/

/-- The value of a binary32 pattern in units of `2^-149`; `none` for a NaN or an infinity. PRESUMED layout, log
entry 9. -/
def sampleUnits (x : Sample) : Option Int :=
  let e := (x.extractLsb' 23 8).toNat
  let f := (x.extractLsb' 0 23).toNat
  if e = 255 then none
  else
    let mag : Nat := if e = 0 then f else (2 ^ 23 + f) * 2 ^ (e - 1)
    some (if x.getLsbD 31 then -(mag : Int) else (mag : Int))

/-- The two components of a cell in units of `2^-149`; `none` if one is not a finite number. -/
def cellUnits (c : Cell) : Option (Int × Int) :=
  match sampleUnits c.re, sampleUnits c.im with
  | some a, some b => some (a, b)
  | _, _ => none

end Sys2Proof.Machine
end

