-- ==== Sys2Proof/Machine/Bch.lean ====
section
/-! DEFINITION. Unit 1, the BCH encoder with polynomial division lookup (41_bch.md). -/

namespace Sys2Proof.Machine

open Sys2Proof.Config

/-! ## BCH.BUILD -/

/-- The generator polynomial, the product of the twelve factors (41_bch.md R122). -/
def bchGenerator (t : Tables) (fs : FrameSize) : Nat := (t.bchFactors.get fs).toList.foldl pmul 1

/-- The division table of a generator `g` of degree `r`: entry `b` is the remainder of `b(x) * x^r` divided by `g(x)`
(41_bch.md R123). -/
def bchTable (r g : Nat) : List (BitVec r) := (List.range 256).map (fun b => BitVec.ofNat r (pmod (b <<< r) g))

/-- `num_fec_bits` of a mode (41_bch.md R120). -/
def bchNfec (mode : FecMode) (r : Nat) : Nat :=
  match mode with
  | .none => 0
  | .crc32 => 32
  | .bch => r

/-- The derived state `BCH.BUILD` computes, or `none` when a check of 41_bch.md R121 fails. -/
def bchDerive (t : Tables) (p : Params) (u : BchRegs) : Option BchDerived :=
  match fecModeOf p.enums u.fecMode with
  | none => none
  | some mode =>
    let fs := frameSizeOf p.enums u.frameSize
    let r := bchR.get fs
    let g := bchGenerator t fs
    if u.kbch ≠ 0#16 ∧ u.kbch.toNat % 8 = 0 ∧ g.log2 = r then
      some
        { r := r
          polynome := BitVec.ofNat r g
          lut := bchTable r g
          crcLut := crcTable
          kbch := u.kbch.toNat
          mode := mode
          nfec := bchNfec mode r }
    else none

/-- The state with a new derived state of unit 1 and its counter at 0. -/
def bchInstall (d : BchDerived) (s : State) : State := { s with bch := { s.bch with der := d, blkcnt := 0#32 } }

/-- `BCH.BUILD` (41_bch.md R120). -/
def execBchBuild (s : State) : Host.Outcome State Fault Refusal :=
  .next (building .bch (encode .bchBuild) (bchDerive s.tables s.params s.bch.regs) bchInstall s)

/-! ## BCH.ENC -/

/-- The remainder of a block by table-driven division (41_bch.md R133). -/
def bchParity (d : BchDerived) (blk : List Byte) : BitVec d.r := tableDivide d.lut 0 (packBytes blk)

/-- The CRC register after a block by the 256-entry table (41_bch.md R132). -/
def crcRegister (p : Params) (d : BchDerived) (blk : List Byte) : Word := tableDivide d.crcLut p.crc32Init (packBytes blk)

/-- The items one firing appends to a block, by mode (41_bch.md R131, R132, R133). -/
def bchSuffix (p : Params) (d : BchDerived) (blk : List Byte) : List Byte :=
  match d.mode with
  | .none => []
  | .crc32 => emitMsb (crcRegister p d blk ^^^ p.crc32Xorout)
  | .bch => emitMsb (bchParity d blk)

/-- The working register `bch.reg` after a firing: the final remainder in mode BCH. -/
def bchRegAfter (d : BchDerived) (blk : List Byte) (old : BitVec 192) : BitVec 192 :=
  match d.mode with
  | .none => old
  | .crc32 => old
  | .bch => (bchParity d blk).setWidth 192

/-- The working register `bch.crc` after a firing: the final register in mode CRC32. -/
def bchCrcAfter (p : Params) (d : BchDerived) (blk : List Byte) (old : Word) : Word :=
  match d.mode with
  | .none => old
  | .crc32 => crcRegister p d blk
  | .bch => old

/-- One firing of `BCH.ENC` (41_bch.md R130). -/
def bchFire (p : Params) (u : BchUnit) : BchUnit :=
  let blk := u.inq.take u.der.kbch
  { u with
    inq := u.inq.drop u.der.kbch
    outq := u.outq ++ (blk ++ bchSuffix p u.der blk)
    reg := bchRegAfter u.der blk u.reg
    crc := bchCrcAfter p u.der blk u.crc
    blkcnt := u.blkcnt + 1#32 }

/-- `BCH.ENC n` (41_bch.md R130). -/
def execBchEnc (n : Nat) (s : State) : Host.Outcome State Fault Refusal :=
  let need := n * s.bch.der.kbch
  .next (streaming .bch (encode (.bchEnc n)) (s.bch.inq.length < need) (hasBadItem s.bch.inq need)
    (fun s => { s with bch := (bchFire s.params)^[n] s.bch }) s)

end Sys2Proof.Machine
end

