-- ==== Sys2Proof/Machine/Bil.lean ====
section
/-! DEFINITION. Unit 3, the bit/block interleaver (43_bit_interleaver.md). -/

namespace Sys2Proof.Machine

open Sys2Proof.Config

/-- The derived state `BIL.BUILD` computes, or `none` when a check of 43_bit_interleaver.md R171 fails. -/
def bilDerive (t : Tables) (p : Params) (u : BilRegs) : Option BilDerived :=
  let fs := frameSizeOf p.enums u.frameSize
  match codeRateOf p.enums u.rate, modulationOf p.enums u.mod with
  | some rate, some mod =>
    match t.bilPerm.lookup (fs, rate, mod) with
    | none => none
    | some perm => if isPerm perm (t.frameBits.get fs) then some ⟨t.frameBits.get fs, perm⟩ else none
  | _, _ => none

/-- The state with a new derived state of unit 3 and its counter at 0. -/
def bilInstall (d : BilDerived) (s : State) : State := { s with bil := { s.bil with der := d, blkcnt := 0#32 } }

/-- `BIL.BUILD` (43_bit_interleaver.md R170). -/
def execBilBuild (s : State) : Host.Outcome State Fault Refusal :=
  .next (building .bil (encode .bilBuild) (bilDerive s.tables s.params s.bil.regs) bilInstall s)

/-- One firing of `BIL.PERM`: a gather through the permutation (43_bit_interleaver.md R173). -/
def bilFire (u : BilUnit) : BilUnit :=
  { u with
    inq := u.inq.drop u.der.n
    outq := u.outq ++ gather 0#8 (u.inq.take u.der.n) u.der.perm
    blkcnt := u.blkcnt + 1#32 }

/-- `BIL.PERM n` (43_bit_interleaver.md R173). -/
def execBilPerm (n : Nat) (s : State) : Host.Outcome State Fault Refusal :=
  let need := n * s.bil.der.n
  .next (streaming .bil (encode (.bilPerm n)) (s.bil.inq.length < need) (hasBadItem s.bil.inq need)
    (fun s => { s with bil := bilFire^[n] s.bil }) s)

end Sys2Proof.Machine
end

