-- ==== Sys2Proof/Machine/Fi.lean ====
section
/-! DEFINITION. Unit 5, the frequency interleaver with its shift-register permutation (45_freq_interleaver.md). -/

namespace Sys2Proof.Machine

open Sys2Proof.Config

/-! ## The generators -/

/-- `bitperm(R, B)`: bit `n` of `R` goes to position `B[n]` (45_freq_interleaver.md R213). -/
def bitperm {w : Nat} (reg : BitVec w) (positions : List Nat) : BitVec w :=
  positions.zipIdx.foldl (fun y e => if reg.getLsbD e.2 then y ||| BitVec.twoPow w e.1 else y) 0

/-- One step of the main generator (45_freq_interleaver.md R214): shift right by one with the exclusive or of the tapped
bits into the top bit, or the ROM's own update function. -/
def fiStepOf (f : FiStep) (taps : List Nat) {w : Nat} (reg : BitVec w) : BitVec w :=
  match f with
  | .lfsr =>
    (reg >>> 1) ||| (if taps.foldl (fun acc t => acc ^^ reg.getLsbD t) false then BitVec.twoPow w (w - 1) else 0)
  | .table next => BitVec.ofNat w (next.getD reg.toNat 0)

/-- `k` successive values of the generator from `reg` on. -/
def fiSequence {w : Nat} (step : BitVec w → BitVec w) : Nat → BitVec w → List (BitVec w)
  | 0, _ => []
  | k + 1, reg => reg :: fiSequence step k (step reg)

/-- `raw(fft, par, i)` for `i = 0 .. m-1`: 0, 0, 1, and then each from the one before (45_freq_interleaver.md R214). -/
def fiRaw {w : Nat} (step : BitVec w → BitVec w) (m : Nat) : List (BitVec w) :=
  (0 :: 0 :: fiSequence step (m - 2) 1).take m

/-- The address at step `i` (45_freq_interleaver.md R212, R216): the permuted value, exclusive or with the second
generator's `off`, with bit `Nr-1` toggled at odd steps. -/
def fiAddress (w : Nat) (positions : List Nat) (off : Nat) (i : Nat) (reg : BitVec w) : Nat :=
  (((bitperm reg positions).setWidth (w + 1) ^^^ BitVec.ofNat (w + 1) off)
    ^^^ (if i % 2 = 1 then BitVec.twoPow (w + 1) w else 0)).toNat

/-- The addresses of one pass, in the order of the steps. -/
def fiAddresses (w : Nat) (positions : List Nat) (off : Nat) (raw : List (BitVec w)) : List Nat :=
  raw.zipIdx.map (fun e => fiAddress w positions off e.2 e.1)

/-- The four filters over the even-role and odd-role addresses of a symbol (45_freq_interleaver.md R217). -/
def fiFilter (geo : Geometry) (he ho : List Nat) : FiVectors where
  hevenFP := he.filter (fun h => decide (h < geo.nFp))
  hoddFP := ho.filter (fun h => decide (h < geo.nFp))
  hevenP := he.filter (fun h => decide (h < geo.nP))
  hoddP := ho.filter (fun h => decide (h < geo.nP))
  hevenSBS := he.filter (fun h => decide (h < geo.nSbs))
  hoddSBS := ho.filter (fun h => decide (h < geo.nSbs))
  heven := he.filter (fun h => decide (h < geo.nData))
  hodd := ho.filter (fun h => decide (h < geo.nData))

/-- Inversion at 32K: each even-role vector becomes the inverse of the odd-role vector of the same regime
(45_freq_interleaver.md R218). -/
def fiInvert (v : FiVectors) : FiVectors :=
  { v with
    hevenFP := inversePerm v.hoddFP
    hevenP := inversePerm v.hoddP
    hevenSBS := inversePerm v.hoddSBS
    heven := inversePerm v.hodd }

/-- Whether each of the eight vectors of a symbol is a permutation of `0 .. ceiling-1` (45_freq_interleaver.md R211 (c),
which at 32K contains the test of R218 on the odd-role vectors). -/
def fiVectorsOk (geo : Geometry) (v : FiVectors) : Bool :=
  isPerm v.hevenFP geo.nFp && isPerm v.hoddFP geo.nFp && isPerm v.hevenP geo.nP && isPerm v.hoddP geo.nP
    && isPerm v.hevenSBS geo.nSbs && isPerm v.hoddSBS geo.nSbs && isPerm v.heven geo.nData && isPerm v.hodd geo.nData

/-! ## FI.BUILD -/

/-- The update function of a pass of parity `par` (45_freq_interleaver.md R214). -/
def fiStepFor (t : Tables) (fft : Fft) (par : Nat) : FiStep :=
  if par = 0 then (t.fiStep.get fft).even else (t.fiStep.get fft).odd

/-- The values of the main generator in a pass of parity `par`, with `w = Nr - 1`. -/
def fiRawFor (t : Tables) (fft : Fft) (nr par : Nat) : List (BitVec (nr - 1)) :=
  fiRaw (fiStepOf (fiStepFor t fft par) (t.fiLogic.get fft)) (2 ^ nr)

/-- The generation pass of one symbol (45_freq_interleaver.md R212), with the inversion at 32K. -/
def fiPass (t : Tables) (fft : Fft) (geo : Geometry) (nr l : Nat) : FiVectors :=
  let raw := fiRawFor t fft nr (l % 2)
  let off := (t.fiSymoff.get fft).getD (l / 2) 0
  let v := fiFilter geo (fiAddresses (nr - 1) (t.fiBitpermEven.get fft) off raw)
    (fiAddresses (nr - 1) (t.fiBitpermOdd.get fft) off raw)
  if fft = .k32 then fiInvert v else v

/-- 45_freq_interleaver.md R211 (b): the generator parameters are well-formed for `symbols` symbols. -/
def fiParamsOk (t : Tables) (p : Params) (fft : Fft) (symbols : Nat) : Bool :=
  let m := p.fiMaxStates.get fft
  let nr := m.log2
  decide (2 ^ nr = m) && decide (2 ≤ nr)
    && isPerm (t.fiBitpermEven.get fft) (nr - 1) && isPerm (t.fiBitpermOdd.get fft) (nr - 1)
    && (t.fiLogic.get fft).all (fun tap => decide (tap < nr - 1))
    && (List.range ((symbols - 1) / 2 + 1)).all (fun k =>
      match (t.fiSymoff.get fft)[k]? with
      | some off => decide (off < 2 ^ nr)
      | none => false)

/-- The derived state `FI.BUILD` computes, or `none` when a check of 45_freq_interleaver.md R211 fails. -/
def fiDerive (t : Tables) (p : Params) (u : FiRegs) : Option FiDerived :=
  match geometryOf t p u.geom with
  | none => none
  | some (k, geo) =>
    if fiParamsOk t p k.fft geo.symbols then
      let vectors := (List.range geo.symbols).map (fiPass t k.fft geo (p.fiMaxStates.get k.fft).log2)
      if vectors.all (fiVectorsOk geo) then some ⟨geo, k.fft, fiModeOf p.enums u.mode, vectors⟩ else none
    else none

/-- The generator's register when the last pass ends, `raw(fft, par, M-1)` (log entry 7). -/
def fiLastRaw (t : Tables) (p : Params) (d : FiDerived) : Nat :=
  match (fiRawFor t d.fft (p.fiMaxStates.get d.fft).log2 ((d.geom.symbols - 1) % 2)).getLast? with
  | some reg => reg.toNat
  | none => 0

/-- The state with a new derived state of unit 5 and its counters at 0. -/
def fiInstall (d : FiDerived) (s : State) : State :=
  { s with fi := { s.fi with der := d, symidx := 0#32, framecnt := 0#32, lfsr := fiLastRaw s.tables s.params d } }

/-- `FI.BUILD` (45_freq_interleaver.md R210). -/
def execFiBuild (s : State) : Host.Outcome State Fault Refusal :=
  .next (building .fi (encode .fiBuild) (fiDerive s.tables s.params s.fi.regs) fiInstall s)

/-! ## FI.SYM -/

/-- The table a symbol uses (45_freq_interleaver.md R221): the regime by place and type, the role by the parity of the
index within the frame. -/
def fiTable (d : FiDerived) (l : Nat) : List Nat :=
  match d.vectors[l]? with
  | none => []
  | some v =>
    match d.geom.symType.getD l .data with
    | .preamble =>
      if l = 0 then (if l % 2 = 0 then v.hevenFP else v.hoddFP) else (if l % 2 = 0 then v.hevenP else v.hoddP)
    | .sbs => if l % 2 = 0 then v.hevenSBS else v.hoddSBS
    | .data => if l % 2 = 0 then v.heven else v.hodd

/-- A cell no gather of a built unit reads. -/
def noCell : Cell := ⟨0#32, 0#32⟩

/-- What a symbol leaves the unit as (45_freq_interleaver.md R220, R222, R223). -/
def fiSymbol (d : FiDerived) (l : Nat) (s : List Cell) : List Cell :=
  if d.mode = .preambleOnly ∧ d.geom.symType.getD l .data ≠ .preamble then s
  else gather noCell s (fiTable d l)

/-- One firing of `FI.SYM` (45_freq_interleaver.md R220). -/
def fiFire (u : FiUnit) : FiUnit :=
  let l := u.symidx.toNat
  let c := u.der.geom.frameCells.getD l 0
  { u with
    inq := u.inq.drop c
    outq := u.outq ++ fiSymbol u.der l (u.inq.take c)
    symidx := nextSymidx u.der.geom.symbols u.symidx
    framecnt := nextFramecnt u.der.geom.symbols u.symidx u.framecnt }

/-- The cells the next `n` symbols take, going back to symbol 0 after the last (45_freq_interleaver.md R220). -/
def fiNeed (geo : Geometry) : Nat → Word → Nat
  | 0, _ => 0
  | n + 1, idx => geo.frameCells.getD idx.toNat 0 + fiNeed geo n (nextSymidx geo.symbols idx)

/-- `FI.SYM n` (45_freq_interleaver.md R220). -/
def execFiSym (n : Nat) (s : State) : Host.Outcome State Fault Refusal :=
  .next (streaming .fi (encode (.fiSym n)) (s.fi.inq.length < fiNeed s.fi.der.geom n s.fi.symidx) false
    (fun s => { s with fi := fiFire^[n] s.fi }) s)

end Sys2Proof.Machine
end

