-- ==== Sys2Proof/Machine/Fm.lean ====
section
/-! DEFINITION. Unit 4, the frame mapper (44_frame_mapper.md). -/

namespace Sys2Proof.Machine

open Sys2Proof.Config

/-! ## FM.BUILD -/

/-- The derived state `FM.BUILD` computes, or `none` when a check of 44_frame_mapper.md R181 fails. Time interleaving
other than `TI_OFF` is refused (R183); `FM_TI_DEPTH` is ignored. -/
def fmDerive (t : Tables) (p : Params) (u : FmRegs) : Option FmDerived :=
  match geometryOf t p u.geom with
  | none => none
  | some (_, geo) =>
    let a := u.l1bCells.toNat
    let b := u.l1dCells.toNat
    if tiModeOf p.enums u.tiMode = some .off ∧ a + b ≤ geo.totalCells then some ⟨geo, a, b, geo.totalCells - a - b⟩ else none

/-- The state with a new derived state of unit 4 and its counter at 0. -/
def fmInstall (d : FmDerived) (s : State) : State := { s with fm := { s.fm with der := d, framecnt := 0#32 } }

/-- `FM.BUILD` (44_frame_mapper.md R180). -/
def execFmBuild (s : State) : Host.Outcome State Fault Refusal :=
  .next (building .fm (encode .fmBuild) (fmDerive s.tables s.params s.fm.regs) fmInstall s)

/-! ## FM.L1B -/

/-- The variant field block, rows 8a and 8b of 44_frame_mapper.md R186: the first for `FLM_TIME_ALIGNED`, which the default
assignment gives the value 0. -/
def l1bVariantBits (e : Enums) (l : L1Basic) : List Byte :=
  match frameLengthModeOf e l.frameLengthMode with
  | .timeAligned => emitMsb l.frameLength ++ emitMsb l.excessSamples
  | .symbolAligned => emitMsb l.timeOffset ++ emitMsb l.additionalSamples

/-- The 168 field bits of L1-Basic, in the order of 44_frame_mapper.md R186. -/
def l1bFieldBits (e : Enums) (l : L1Basic) : List Byte :=
  emitMsb l.version ++ emitMsb l.mimoPilotEncoding ++ emitMsb l.llsFlag ++ emitMsb l.timeInfoFlag
    ++ emitMsb l.returnChannel ++ emitMsb l.paprReduction ++ emitMsb l.frameLengthMode ++ l1bVariantBits e l
    ++ emitMsb l.numSubframes ++ emitMsb l.preambleNumSymbols ++ emitMsb l.preambleReducedCarriers
    ++ emitMsb l.detailContentTag ++ emitMsb l.detailSizeBytes ++ emitMsb l.detailFecType
    ++ emitMsb l.detailAdditionalParityMode ++ emitMsb l.detailTotalCells ++ emitMsb l.firstSubMimo
    ++ emitMsb l.firstSubMiso ++ emitMsb l.firstSubFftSize ++ emitMsb l.firstSubReducedCarriers
    ++ emitMsb l.firstSubGuardInterval ++ emitMsb l.firstSubNumOfdmSymbols
    ++ emitMsb l.firstSubScatteredPilotPattern ++ emitMsb l.firstSubScatteredPilotBoost
    ++ emitMsb l.firstSubSbsFirst ++ emitMsb l.firstSubSbsLast ++ emitMsb (l.reservedHi ++ l.reservedLo)

/-- The 200 bits of L1-Basic: the fields, then their CRC-32 (44_frame_mapper.md R185, R187). -/
def l1bBitsOf (p : Params) (l : L1Basic) : List Byte :=
  l1bFieldBits p.enums l ++ emitMsb (crc32Bits p (l1bFieldBits p.enums l))

/-- `FM.L1B` (44_frame_mapper.md R185): it takes no items, so only the first check of the skeleton applies. -/
def execFmL1b (s : State) : Host.Outcome State Fault Refusal :=
  .next (streaming .fm (encode .fmL1b) false false
    (fun s => { s with fm := { s.fm with l1bOut := s.fm.l1bOut ++ l1bBitsOf s.params s.fm.l1 } }) s)

/-! ## FM.L1D -/

/-- `FM.L1D` (44_frame_mapper.md R190): always `Unimplemented(4)`, built or not. -/
def execFmL1d (s : State) : Host.Outcome State Fault Refusal :=
  .next (raise .unimplemented UnitId.fm.number (encode .fmL1d) s)

/-! ## FM.MAP -/

/-- The cells of one frame: L1-Basic, L1-Detail, payload, each in arrival order (44_frame_mapper.md R196). -/
def fmPlace (a b p : List Cell) : List Cell := a ++ b ++ p

/-- One firing of `FM.MAP` (44_frame_mapper.md R195). -/
def fmFire (u : FmUnit) : FmUnit :=
  { u with
    l1bIn := u.l1bIn.drop u.der.l1bCells
    l1dIn := u.l1dIn.drop u.der.l1dCells
    plpIn := u.plpIn.drop u.der.plpCells
    outq := u.outq ++ fmPlace (u.l1bIn.take u.der.l1bCells) (u.l1dIn.take u.der.l1dCells) (u.plpIn.take u.der.plpCells)
    framecnt := u.framecnt + 1#32 }

/-- Whether an input queue of unit 4 holds fewer cells than `n` frames take (60_exceptions.md R295). -/
def fmShort (n : Nat) (u : FmUnit) : Bool :=
  decide (u.l1bIn.length < n * u.der.l1bCells) || decide (u.l1dIn.length < n * u.der.l1dCells)
    || decide (u.plpIn.length < n * u.der.plpCells)

/-- `FM.MAP n` (44_frame_mapper.md R195). -/
def execFmMap (n : Nat) (s : State) : Host.Outcome State Fault Refusal :=
  .next (streaming .fm (encode (.fmMap n)) (fmShort n s.fm) false (fun s => { s with fm := fmFire^[n] s.fm }) s)

end Sys2Proof.Machine
end

