-- ==== Sys2Proof/Machine/Ldpc.lean ====
section
/-! DEFINITION. Unit 2, the LDPC encoder with row and column address expansion (42_ldpc.md). -/

namespace Sys2Proof.Machine

open Sys2Proof.Config

/-! ## LDPC.BUILD -/

/-- The type-dependent dimensions the registers hold; those of the other type are ignored (10_state.md R32). -/
def ldpcDimsOf (e : Enums) (u : LdpcRegs) : LdpcDims :=
  match ldpcTypeOf e u.type with
  | .typeA => .typeA u.q1.toNat u.q2.toNat u.m1.toNat u.m2.toNat
  | .typeB => .typeB u.q.toNat

/-- 42_ldpc.md R151 (c), for `p` parity bits. -/
def ldpcDimsOk (dims : LdpcDims) (p : Nat) : Bool :=
  match dims with
  | .typeA q1 q2 m1 m2 => q1 != 0 && q2 != 0 && m1 != 0 && m2 != 0 && m1 + m2 == p
  | .typeB q => q != 0

/-- 42_ldpc.md R151 (d), the number of rows. -/
def ldpcRowCountOk (dims : LdpcDims) (rows nbch frameBits : Nat) : Bool :=
  decide (nbch ≤ ldpcGroup * rows) && decide (ldpcGroup * rows ≤ frameBits) &&
    match dims with
    | .typeA _ _ _ _ => true
    | .typeB _ => ldpcGroup * rows == nbch

/-- The parity bit that member `m` of a group of 360 contributes to through the address `a`
(42_ldpc.md R152 for type B, R153 for type A). -/
def ldpcTarget (dims : LdpcDims) (p a m : Nat) : Nat :=
  match dims with
  | .typeA q1 q2 m1 m2 => if a < m1 then (a + m * q1) % m1 else m1 + ((a - m1) + m * q2) % m2
  | .typeB q => (a + m * q) % p

/-- A table with index `i` appended to the list of parity bit `t`. -/
def appendAt (lut : List (List Nat)) (t i : Nat) : List (List Nat) := lut.modify t (fun l => l ++ [i])

/-- The contributions of one address of row `g`: its 360 members in order. -/
def ldpcExpandAddress (dims : LdpcDims) (p g a : Nat) (lut : List (List Nat)) : List (List Nat) :=
  (List.range ldpcGroup).foldl (fun acc m => appendAt acc (ldpcTarget dims p a m) (ldpcGroup * g + m)) lut

/-- The contributions of the rows, the first of which is row `g` (42_ldpc.md R152, R153). -/
def ldpcExpandRows (dims : LdpcDims) (p : Nat) : Nat → List (List Nat) → List (List Nat) → List (List Nat)
  | _, [], lut => lut
  | g, row :: rows, lut =>
    ldpcExpandRows dims p (g + 1) rows (row.foldl (fun acc a => ldpcExpandAddress dims p g a acc) lut)

/-- The contribution lists of `p` parity bits. -/
def ldpcExpand (dims : LdpcDims) (p : Nat) (rows : List (List Nat)) : List (List Nat) :=
  ldpcExpandRows dims p 0 rows (List.replicate p [])

/-- The order condition (42_ldpc.md R154): a parity bit receives only from codeword bits before it. -/
def ldpcOrderOk (nbch : Nat) (lut : List (List Nat)) : Bool :=
  (List.range lut.length).all (fun p => (lut.getD p []).all (fun i => decide (i < nbch + p)))

/-- The derived state `LDPC.BUILD` computes, or `none` when a check of 42_ldpc.md R151 or R154 fails. All the checks
raise the same error, so their order is not observable (60_exceptions.md R300): those on registers stand first. -/
def ldpcDerive (t : Tables) (p : Params) (u : LdpcRegs) : Option LdpcDerived :=
  let fs := frameSizeOf p.enums u.frameSize
  let frameBits := t.frameBits.get fs
  let nbch := u.nbch.toNat
  let dims := ldpcDimsOf p.enums u
  if nbch ≠ 0 ∧ nbch % ldpcGroup = 0 ∧ nbch < frameBits ∧ ldpcDimsOk dims (frameBits - nbch) = true then
    match codeRateOf p.enums u.rate with
    | none => none
    | some rate =>
      match t.ldpcRows.lookup (fs, rate) with
      | none => none
      | some rows =>
        if ldpcRowCountOk dims rows.length nbch frameBits = true
            ∧ (rows.all (fun row => row.all (fun a => decide (a < frameBits - nbch)))) = true then
          let lut := ldpcExpand dims (frameBits - nbch) rows
          if ldpcOrderOk nbch lut = true then some ⟨frameBits, nbch, frameBits - nbch, lut⟩ else none
        else none
  else none

/-- The state with a new derived state of unit 2 and its counter at 0. -/
def ldpcInstall (d : LdpcDerived) (s : State) : State := { s with ldpc := { s.ldpc with der := d, blkcnt := 0#32 } }

/-- `LDPC.BUILD` (42_ldpc.md R150). -/
def execLdpcBuild (s : State) : Host.Outcome State Fault Refusal :=
  .next (building .ldpc (encode .ldpcBuild) (ldpcDerive s.tables s.params s.ldpc.regs) ldpcInstall s)

/-! ## LDPC.ENC -/

/-- The exclusive or of the codeword bits a contribution list names; the empty one is 0 (42_ldpc.md R156). -/
def ldpcParityBit (cw : List Byte) (contrib : List Nat) : Bool :=
  contrib.foldl (fun acc i => acc ^^ itemBit (cw.getD i 0#8)) false

/-- The codeword: the systematic items, then one parity item per list, each over the codeword as built so far
(42_ldpc.md R156). -/
def ldpcCodeword (lut : List (List Nat)) (s : List Byte) : List Byte :=
  lut.foldl (fun cw contrib => cw ++ [bitItem (ldpcParityBit cw contrib)]) s

/-- One firing of `LDPC.ENC` (42_ldpc.md R155). -/
def ldpcFire (u : LdpcUnit) : LdpcUnit :=
  { u with
    inq := u.inq.drop u.der.nbch
    outq := u.outq ++ ldpcCodeword u.der.lut (u.inq.take u.der.nbch)
    blkcnt := u.blkcnt + 1#32 }

/-- `LDPC.ENC n` (42_ldpc.md R155). -/
def execLdpcEnc (n : Nat) (s : State) : Host.Outcome State Fault Refusal :=
  let need := n * s.ldpc.der.nbch
  .next (streaming .ldpc (encode (.ldpcEnc n)) (s.ldpc.inq.length < need) (hasBadItem s.ldpc.inq need)
    (fun s => { s with ldpc := ldpcFire^[n] s.ldpc }) s)

end Sys2Proof.Machine
end

