-- ==== Sys2Proof/Machine/Sys.lean ====
section
/-! DEFINITION. The system commands (40_system_commands.md R109, R110). -/

namespace Sys2Proof.Machine

/-- `SYS.RESET` on the block: every piece of state at its reset value (10_state.md R65). The table ROM and the
parameters are not touched (70_reset_and_hazards.md R316); the host's side of the run is not the block's; the model's
count of free values goes on, so that none is drawn twice (log entry 10). -/
def resetBlock (s : State) : State :=
  { State.reset with
    tables := s.tables
    params := s.params
    tr := { resetTr with freeUses := s.tr.freeUses }
    host := s.host }

/-- `SYS.NOP` (40_system_commands.md R109): the state after is the state before. -/
def execSysNop (s : State) : Host.Outcome State Fault Refusal := .next s

/-- `SYS.RESET` (40_system_commands.md R110). -/
def execSysReset (s : State) : Host.Outcome State Fault Refusal := .next (resetBlock s)

end Sys2Proof.Machine
end

