-- ==== Sys2Proof/Machine/TrReference.lean ====
section
/-! DEFINITION. The tone-reservation reduction over the real numbers, the reference of 46_papr_tr.md R244. These
definitions are about exact numbers and are not run; the unit's output is a sample for each of them (`Tr.lean`). -/

namespace Sys2Proof.Machine

open Sys2Proof.Config

/-- One symbol to be reduced: the symbol's tone positions `T`, its carrier count, the clip target, the iteration
budget, the setting of the exit test, and the time-domain samples. -/
structure TrProblem where
  n : Nat
  tones : List Nat
  carriers : Nat
  vClip : ℝ
  numIter : Nat
  relaxed : Bool
  x : Nat → ℂ

/-- The scratch vectors of the loop (46_papr_tr.md R248). -/
structure TrLoop where
  r : Nat → ℂ
  rNew : Nat → ℂ
  v : Nat → ℂ
  c : Nat → ℂ
  ctemp : Nat → ℂ
  magnitude : Nat → ℝ

/-- The scratch at the start of every symbol: zero (46_papr_tr.md R248). -/
noncomputable def trStart : TrLoop := ⟨0, 0, 0, 0, 0, 0⟩

/-- `exp(+j * 2*pi * k / n)`. -/
noncomputable def trPhase (n : Nat) (k : Int) : ℂ := Complex.exp (2 * Real.pi * Complex.I * k / n)

/-- The reserved tone positions of symbol `l` (46_papr_tr.md R246), in table order; `Int.emod` by a positive number is
the floored remainder. -/
def trToneSet (n : Nat) (tones : List Nat) (dx dy offset : Nat) (ty : SymType) (l : Nat) : List Nat :=
  let sh := if ty = .data then dx * (((l : Int) - (offset : Int)) % (dy : Int)).toNat else 0
  tones.map (fun t => (t + sh) % n)

/-- The reserved-tone indicator of a symbol (46_papr_tr.md R246). -/
def trIndicator (tones : List Nat) (k : Nat) : Nat := if k ∈ tones then 1 else 0

/-- The time-domain kernel (46_papr_tr.md R247). -/
noncomputable def trKernel (n : Nat) (tones : List Nat) (m : Nat) : ℂ :=
  (1 / (tones.length : ℂ)) * (tones.map (fun (k : Nat) => trPhase n ((k : Int) * (m : Int)))).sum

/-- The hard limit `aMax` (46_papr_tr.md R250). -/
noncomputable def trAMax (nTr carriers : Nat) : ℝ := 5 * nTr * Real.sqrt (10 / (27 * carriers))

/-- The least index below `k` (below 1 when `k` is 0) at which a sequence is greatest. -/
noncomputable def trPeakIndex (mag : Nat → ℝ) : Nat → Nat
  | 0 => 0
  | k + 1 => if mag (trPeakIndex mag k) < mag k then k else trPeakIndex mag k

/-- The lesser of a bound and the first `k` members of a sequence. -/
noncomputable def trLeast (bound : ℝ) (f : Nat → ℝ) : Nat → ℝ
  | 0 => bound
  | k + 1 => min (trLeast bound f k) (f k)

/-- The peak's index in a measured loop state. -/
noncomputable def trPeak (q : TrProblem) (s : TrLoop) : Nat := trPeakIndex s.magnitude q.n

/-- Signal plus correction and its magnitudes (46_papr_tr.md R249). -/
noncomputable def trMeasure (q : TrProblem) (s : TrLoop) : TrLoop :=
  { s with
    ctemp := fun i => q.x i + s.c i
    magnitude := fun i => ‖q.x i + s.c i‖ }

/-- The threshold of the exit test (46_papr_tr.md R252). -/
noncomputable def trThreshold (q : TrProblem) : ℝ := if q.relaxed then q.vClip + 1 / trExitMarginDen else q.vClip

/-- The exit test on a measured loop state (46_papr_tr.md R252). -/
def trExits (q : TrProblem) (s : TrLoop) : Prop := s.magnitude (trPeak q s) ≤ trThreshold q

/-- The unit number of the peak's phase. -/
noncomputable def trUnit (q : TrProblem) (s : TrLoop) : ℂ :=
  s.ctemp (trPeak q s) / (s.magnitude (trPeak q s) : ℂ)

/-- `v[a]`: the amplitude of tone `a` rotated to the peak's phase (46_papr_tr.md R251). -/
noncomputable def trRotated (q : TrProblem) (s : TrLoop) (a : Nat) : ℂ :=
  s.r a * (starRingEnd ℂ) (trUnit q s) * trPhase q.n ((q.tones.getD a 0 : Int) * (trPeak q s : Int))

/-- `alpha_max[a]`: the greatest step that keeps tone `a` within `aMax` (46_papr_tr.md R251). -/
noncomputable def trAlphaMax (q : TrProblem) (s : TrLoop) (a : Nat) : ℝ :=
  (trRotated q s a).re
    + Real.sqrt (trAMax q.tones.length q.carriers ^ 2 - (trRotated q s a).im ^ 2)

/-- The clamped step (46_papr_tr.md R249). -/
noncomputable def trAlpha (q : TrProblem) (s : TrLoop) : ℝ :=
  trLeast (s.magnitude (trPeak q s) - q.vClip) (trAlphaMax q s) q.tones.length

/-- The candidate amplitudes `rNew` (46_papr_tr.md R249). -/
noncomputable def trRNew (q : TrProblem) (s : TrLoop) (a : Nat) : ℂ :=
  s.r a - trAlpha q s * trUnit q s * trPhase q.n (-((q.tones.getD a 0 : Int) * (trPeak q s : Int)))

/-- The corrected buffer: the kernel, shifted circularly to the peak, scaled and subtracted (46_papr_tr.md R249). -/
noncomputable def trCNew (q : TrProblem) (s : TrLoop) (i : Nat) : ℂ :=
  s.c i - trAlpha q s * trUnit q s * trKernel q.n q.tones ((((i : Int) - (trPeak q s : Int)) % (q.n : Int)).toNat)

/-- The update of one iteration on a measured loop state that does not exit (46_papr_tr.md R249). -/
noncomputable def trCorrect (q : TrProblem) (s : TrLoop) : TrLoop :=
  { s with
    v := trRotated q s
    rNew := trRNew q s
    c := trCNew q s
    r := trRNew q s }

open Classical in
/-- At most `k` iterations, with the early exit (46_papr_tr.md R249). -/
noncomputable def trIterate (q : TrProblem) : Nat → TrLoop → TrLoop
  | 0, s => s
  | k + 1, s =>
    if trExits q (trMeasure q s) then trMeasure q s else trIterate q k (trCorrect q (trMeasure q s))

/-- The loop's final state (46_papr_tr.md R249). -/
noncomputable def trRun (q : TrProblem) : TrLoop := trIterate q q.numIter trStart

/-- The output sample (46_papr_tr.md R253). -/
noncomputable def trOutput (q : TrProblem) (i : Nat) : ℂ := q.x i + (trRun q).c i

end Sys2Proof.Machine
end

