-- ==== Sys2Proof/Machine/Tr.lean ====
section
/-! DEFINITION. Unit 6, the tone-reservation PAPR reducer (46_papr_tr.md). -/

namespace Sys2Proof.Machine

open Sys2Proof.Config

/-! ## TR.BUILD -/

/-- The checks made only in mode `PAPR_TR` (46_papr_tr.md R241 (b)). -/
def trToneChecks (tones : List Nat) (n : Nat) (dx dy : Option Nat) (vClip : Option Int) : Bool :=
  !tones.isEmpty && tones.all (fun k => decide (k < n)) && decide tones.Nodup
    && dx.isSome
    && (match dy with
      | some y => decide (1 ≤ y)
      | none => false)
    && (match vClip with
      | some v => decide (0 < v)
      | none => false)

/-- The derived state `TR.BUILD` computes, or `none` when a check of 46_papr_tr.md R241 fails. -/
def trDerive (t : Tables) (p : Params) (u : TrRegs) : Option TrDerived :=
  match geometryOf t p u.geom with
  | none => none
  | some (k, geo) =>
    let mode := paprModeOf p.enums u.paprMode
    let n := p.fiMaxStates.get k.fft
    let tones := t.trTones.get k.fft
    let dx := t.pilotDx.lookup k.pilotPattern
    let dy := t.pilotDy.lookup k.pilotPattern
    let vClip := sampleUnits u.vclip
    if mode ≠ .tr ∨ trToneChecks tones n dx dy vClip = true then
      some
        { geom := geo
          fft := k.fft
          mode := mode
          n := n
          tones := tones
          nTr := tones.length
          dx := dx
          dy := dy
          numIter := u.numIter.toNat
          vClip := vClip
          offset := u.shiftOffset.toNat }
    else none

/-- The state with a new derived state of unit 6 and its counters at 0. -/
def trInstall (d : TrDerived) (s : State) : State :=
  { s with tr := { s.tr with der := d, symidx := 0#32, framecnt := 0#32 } }

/-- `TR.BUILD` (46_papr_tr.md R240). -/
def execTrBuild (s : State) : Host.Outcome State Fault Refusal :=
  .next (building .tr (encode .trBuild) (trDerive s.tables s.params s.tr.regs) trInstall s)

/-! ## The reduction of one symbol -/

/-- Whether every component of a symbol is a finite number (46_papr_tr.md R244). -/
def trAllFinite (x : List Cell) : Bool := x.all (fun c => (cellUnits c).isSome)

/-- Whether the square of a cell's magnitude is at most the square of `num / den`, in units of `2^-149`; a cell that is
not finite is not. -/
def magnitudeWithin (num : Int) (den : Nat) (c : Cell) : Bool :=
  match cellUnits c with
  | some (a, b) => decide ((den : Int) ^ 2 * (a ^ 2 + b ^ 2) ≤ num ^ 2)
  | none => false

/-- The exit test of 46_papr_tr.md R252 on the uncorrected symbol, in whole numbers: its peak is the greatest magnitude,
so the peak is within the threshold exactly when every magnitude is. -/
def trExitsAtOnce (relaxed : Bool) (vClip : Int) (x : List Cell) : Bool :=
  if relaxed then x.all (magnitudeWithin (trExitMarginDen * vClip + 2 ^ 149) trExitMarginDen)
  else x.all (magnitudeWithin vClip 1)

/-- Whether the loop ends before its first correction: no iteration is allowed, or the first exit test holds. -/
def trNoCorrection (p : Params) (d : TrDerived) (x : List Cell) : Bool :=
  d.numIter == 0 || trExitsAtOnce p.trRelaxedExit (d.vClip.getD 0) x

/-- The complex number a cell denotes; 0 where a component is not finite, which no reduction reads. -/
noncomputable def cellValue (c : Cell) : ℂ :=
  match cellUnits c with
  | some (a, b) => ⟨(a : ℝ) / 2 ^ 149, (b : ℝ) / 2 ^ 149⟩
  | none => 0

/-- The reference problem of symbol `l` with samples `x` (46_papr_tr.md R246, R249, R250). -/
noncomputable def trProblemOf (p : Params) (d : TrDerived) (l : Nat) (x : List Cell) : TrProblem where
  n := d.n
  tones := trToneSet d.n d.tones (d.dx.getD 0) (d.dy.getD 0) d.offset (d.geom.symType.getD l .data) l
  carriers := d.geom.carriers.getD l 0
  vClip := (d.vClip.getD 0 : ℝ) / 2 ^ 149
  numIter := d.numIter
  relaxed := p.trRelaxedExit
  x := fun i => cellValue (x.getD i ⟨0#32, 0#32⟩)

/-- `k` cells that hold the exact complex numbers `isExact 0`, `isExact 1`, ..: each component is the free sample for
its real number (46_papr_tr.md R244; log entry 10). -/
def trHeldCells (use : Nat) (vec : TrVector) (k : Nat) (isExact : Nat → ℂ → Prop) : List Cell :=
  (List.range k).map fun i =>
    ⟨sampleOf use ⟨vec, i, false⟩ (fun y => ∃ z, isExact i z ∧ y = z.re),
      sampleOf use ⟨vec, i, true⟩ (fun y => ∃ z, isExact i z ∧ y = z.im)⟩

/-- `k` samples that hold exact real numbers. -/
def trHeldSamples (use : Nat) (vec : TrVector) (k : Nat) (isExact : Nat → ℝ → Prop) : List Sample :=
  (List.range k).map fun i => sampleOf use ⟨vec, i, false⟩ (isExact i)

/-- `k` cells of which nothing is specified (46_papr_tr.md R244; log entry 11). -/
def trUnspecifiedCells (use : Nat) (vec : TrVector) (k : Nat) : List Cell :=
  (List.range k).map fun i => ⟨unspecifiedSample use ⟨vec, i, false⟩, unspecifiedSample use ⟨vec, i, true⟩⟩

/-- `k` cells of zero. -/
def trZeroCells (k : Nat) : List Cell := List.replicate k ⟨0#32, 0#32⟩

/-- The output and the scratch of a symbol that holds a component that is not finite: unspecified. -/
def trUnspecified (use : Nat) (d : TrDerived) : List Cell × TrScratch :=
  (trUnspecifiedCells use .y d.n,
    { r := trUnspecifiedCells use .r d.nTr
      rNew := trUnspecifiedCells use .rNew d.nTr
      v := trUnspecifiedCells use .v d.nTr
      c := trUnspecifiedCells use .c d.n
      ctemp := trUnspecifiedCells use .ctemp d.n
      magnitude := (trUnspecifiedCells use .magnitude d.n).map Cell.re })

/-- The output and the scratch of a symbol whose loop makes no correction: the output is the input
(46_papr_tr.md R245, 95_test_vectors.md V48; log entry 12), the correction stays 0. -/
def trUncorrected (use : Nat) (d : TrDerived) (x : List Cell) : List Cell × TrScratch :=
  (x,
    { r := trZeroCells d.nTr
      rNew := trZeroCells d.nTr
      v := trZeroCells d.nTr
      c := trZeroCells d.n
      ctemp := if d.numIter = 0 then trZeroCells d.n else x
      magnitude :=
        if d.numIter = 0 then List.replicate d.n 0#32
        else trHeldSamples use .magnitude d.n (fun i y => y = ‖cellValue (x.getD i ⟨0#32, 0#32⟩)‖) })

/-- The output and the scratch of a symbol the loop corrects: the samples of the reference's exact numbers
(46_papr_tr.md R249, R253). -/
def trCorrected (use : Nat) (p : Params) (d : TrDerived) (l : Nat) (x : List Cell) : List Cell × TrScratch :=
  (trHeldCells use .y d.n (fun i z => z = trOutput (trProblemOf p d l x) i),
    { r := trHeldCells use .r d.nTr (fun i z => z = (trRun (trProblemOf p d l x)).r i)
      rNew := trHeldCells use .rNew d.nTr (fun i z => z = (trRun (trProblemOf p d l x)).rNew i)
      v := trHeldCells use .v d.nTr (fun i z => z = (trRun (trProblemOf p d l x)).v i)
      c := trHeldCells use .c d.n (fun i z => z = (trRun (trProblemOf p d l x)).c i)
      ctemp := trHeldCells use .ctemp d.n (fun i z => z = (trRun (trProblemOf p d l x)).ctemp i)
      magnitude := trHeldSamples use .magnitude d.n (fun i y => y = (trRun (trProblemOf p d l x)).magnitude i) })

/-- The reduction of a symbol (46_papr_tr.md R246 to R253): what leaves the unit, and the scratch. -/
def trReduce (use : Nat) (p : Params) (d : TrDerived) (l : Nat) (x : List Cell) : List Cell × TrScratch :=
  if trAllFinite x then
    if trNoCorrection p d x then trUncorrected use d x else trCorrected use p d l x
  else trUnspecified use d

/-! ## TR.SYM -/

/-- Whether symbol `l` is reduced (46_papr_tr.md R242). -/
def trEngaged (d : TrDerived) (l : Nat) : Bool := d.mode == .tr && l != 0

/-- One firing of `TR.SYM` (46_papr_tr.md R245). -/
def trFire (p : Params) (u : TrUnit) : TrUnit :=
  let l := u.symidx.toNat
  let x := u.inq.take u.der.n
  let base :=
    { u with
      inq := u.inq.drop u.der.n
      symidx := nextSymidx u.der.geom.symbols u.symidx
      framecnt := nextFramecnt u.der.geom.symbols u.symidx u.framecnt }
  if trEngaged u.der l then
    { base with
      outq := u.outq ++ (trReduce u.freeUses p u.der l x).1
      scratch := (trReduce u.freeUses p u.der l x).2
      freeUses := u.freeUses + 1 }
  else { base with outq := u.outq ++ x }

/-- `TR.SYM n` (46_papr_tr.md R245). -/
def execTrSym (n : Nat) (s : State) : Host.Outcome State Fault Refusal :=
  .next (streaming .tr (encode (.trSym n)) (s.tr.inq.length < n * s.tr.der.n) false
    (fun s => { s with tr := (trFire s.params)^[n] s.tr }) s)

end Sys2Proof.Machine
end

