-- ==== Sys2Proof/Machine/Dispatch.lean ====
section
/-! DEFINITION. The effect of a command, one arm per row of spec/opcode_table.json (30_encoding.md R93). -/

namespace Sys2Proof.Machine

def exec (i : Instr) (s : State) : Host.Outcome State Fault Refusal :=
  match i with
  | .sysNop => Sys2Proof.Machine.execSysNop s
  | .sysReset => Sys2Proof.Machine.execSysReset s
  | .bchBuild => Sys2Proof.Machine.execBchBuild s
  | .bchEnc n => Sys2Proof.Machine.execBchEnc n s
  | .ldpcBuild => Sys2Proof.Machine.execLdpcBuild s
  | .ldpcEnc n => Sys2Proof.Machine.execLdpcEnc n s
  | .bilBuild => Sys2Proof.Machine.execBilBuild s
  | .bilPerm n => Sys2Proof.Machine.execBilPerm n s
  | .fmBuild => Sys2Proof.Machine.execFmBuild s
  | .fmL1b => Sys2Proof.Machine.execFmL1b s
  | .fmL1d => Sys2Proof.Machine.execFmL1d s
  | .fmMap n => Sys2Proof.Machine.execFmMap n s
  | .fiBuild => Sys2Proof.Machine.execFiBuild s
  | .fiSym n => Sys2Proof.Machine.execFiSym n s
  | .trBuild => Sys2Proof.Machine.execTrBuild s
  | .trSym n => Sys2Proof.Machine.execTrSym n s

end Sys2Proof.Machine
end

