-- ==== Sys2Proof/Machine/HostPort.lean ====
section
/-! DEFINITION. The host's accesses: the register map (10_state.md R23), `RegRead`, `RegWrite`, `HostPush`, `HostPop`
(40_system_commands.md R105 to R108), and which command, if any, an action issues (10_state.md R24). -/

namespace Sys2Proof.Machine

open Sys2Proof.Config

/-! ## The register map -/

/-- The base of a geometry group (10_state.md R36). -/
def GeomUnit.base : GeomUnit → Nat
  | .fm => 0x40
  | .fi => 0x80
  | .tr => 0xA0

/-- The geometry registers in the order of their offsets. -/
def geomFields : List GeomField :=
  [.fftSize, .guardInterval, .pilotPattern, .reducedCarriers, .numPreambleSyms, .numPayloadSyms, .sbsFirst, .l1bMode]

/-- The L1-Basic registers in the order of their indices, from 0x50 on (10_state.md R39). -/
def l1bFields : List L1bField :=
  [.version, .mimoPilotEncoding, .llsFlag, .timeInfoFlag, .returnChannel, .paprReduction, .frameLengthMode,
    .frameLength, .excessSamples, .timeOffset, .additionalSamples, .numSubframes, .preambleNumSymbols,
    .preambleReducedCarriers, .detailContentTag, .detailSizeBytes, .detailFecType, .detailAdditionalParityMode,
    .detailTotalCells, .firstSubMimo, .firstSubMiso, .firstSubFftSize, .firstSubReducedCarriers,
    .firstSubGuardInterval, .firstSubNumOfdmSymbols, .firstSubScatteredPilotPattern, .firstSubScatteredPilotBoost,
    .firstSubSbsFirst, .firstSubSbsLast, .reservedHi, .reservedLo]

/-- Consecutive rows of the map from index `base` on. -/
def mapFrom (base : Nat) (rows : List RegSel) : List (Nat × RegSel) := rows.zipIdx.map (fun e => (base + e.2, e.1))

/-- A geometry group's rows of the map. -/
def geomRows (u : GeomUnit) : List (Nat × RegSel) := mapFrom u.base (geomFields.map (fun f => .rw (.geom u f)))

/-- The register map of 10_state.md R23, in the order of the indices. -/
def regMap : List (Nat × RegSel) :=
  mapFrom 0x00 [.cmd, .ro .status, .ro .errinfo, .ro .errval]
    ++ mapFrom 0x10 [.rw .bchFrameSize, .rw .bchKbch, .rw .bchFecMode, .ro .bchBlkcnt]
    ++ mapFrom 0x20
      [.rw .ldpcFrameSize, .rw .ldpcRate, .rw .ldpcNbch, .rw .ldpcType, .rw .ldpcQ, .rw .ldpcQ1, .rw .ldpcQ2,
        .rw .ldpcM1, .rw .ldpcM2, .ro .ldpcBlkcnt]
    ++ mapFrom 0x30 [.rw .bilFrameSize, .rw .bilRate, .rw .bilMod, .ro .bilBlkcnt]
    ++ geomRows .fm
    ++ mapFrom 0x48 [.rw .fmTiMode, .rw .fmTiDepth, .rw .fmL1bCells, .rw .fmL1dCells, .ro .fmFramecnt]
    ++ mapFrom 0x50 (l1bFields.map (fun f => .rw (.l1b f)))
    ++ geomRows .fi
    ++ mapFrom 0x88 [.rw .fiMode, .ro .fiSymidx, .ro .fiFramecnt]
    ++ geomRows .tr
    ++ mapFrom 0xA8
      [.rw .trPaprMode, .rw .trNumIter, .rw .trVclip, .rw .trShiftOffset, .ro .trSymidx, .ro .trFramecnt]

/-- What a register index names; an index the map does not list is unimplemented (10_state.md R22). -/
def regAt (i : BitVec 8) : RegSel := (regMap.lookup i.toNat).getD .unimplemented

/-! ## Reading -/

/-- A register of a geometry group, zero-extended. -/
def geomRead (g : GeomRegs) : GeomField → Word
  | .fftSize => g.fftSize.setWidth 32
  | .guardInterval => g.guardInterval.setWidth 32
  | .pilotPattern => g.pilotPattern.setWidth 32
  | .reducedCarriers => g.reducedCarriers.setWidth 32
  | .numPreambleSyms => g.numPreambleSyms.setWidth 32
  | .numPayloadSyms => g.numPayloadSyms.setWidth 32
  | .sbsFirst => g.sbsFirst.setWidth 32
  | .l1bMode => g.l1bMode.setWidth 32

/-- A register of the L1-Basic bank, zero-extended. -/
def l1bRead (l : L1Basic) : L1bField → Word
  | .version => l.version.setWidth 32
  | .mimoPilotEncoding => l.mimoPilotEncoding.setWidth 32
  | .llsFlag => l.llsFlag.setWidth 32
  | .timeInfoFlag => l.timeInfoFlag.setWidth 32
  | .returnChannel => l.returnChannel.setWidth 32
  | .paprReduction => l.paprReduction.setWidth 32
  | .frameLengthMode => l.frameLengthMode.setWidth 32
  | .frameLength => l.frameLength.setWidth 32
  | .excessSamples => l.excessSamples.setWidth 32
  | .timeOffset => l.timeOffset.setWidth 32
  | .additionalSamples => l.additionalSamples.setWidth 32
  | .numSubframes => l.numSubframes.setWidth 32
  | .preambleNumSymbols => l.preambleNumSymbols.setWidth 32
  | .preambleReducedCarriers => l.preambleReducedCarriers.setWidth 32
  | .detailContentTag => l.detailContentTag.setWidth 32
  | .detailSizeBytes => l.detailSizeBytes.setWidth 32
  | .detailFecType => l.detailFecType.setWidth 32
  | .detailAdditionalParityMode => l.detailAdditionalParityMode.setWidth 32
  | .detailTotalCells => l.detailTotalCells.setWidth 32
  | .firstSubMimo => l.firstSubMimo.setWidth 32
  | .firstSubMiso => l.firstSubMiso.setWidth 32
  | .firstSubFftSize => l.firstSubFftSize.setWidth 32
  | .firstSubReducedCarriers => l.firstSubReducedCarriers.setWidth 32
  | .firstSubGuardInterval => l.firstSubGuardInterval.setWidth 32
  | .firstSubNumOfdmSymbols => l.firstSubNumOfdmSymbols.setWidth 32
  | .firstSubScatteredPilotPattern => l.firstSubScatteredPilotPattern.setWidth 32
  | .firstSubScatteredPilotBoost => l.firstSubScatteredPilotBoost.setWidth 32
  | .firstSubSbsFirst => l.firstSubSbsFirst.setWidth 32
  | .firstSubSbsLast => l.firstSubSbsLast.setWidth 32
  | .reservedHi => l.reservedHi.setWidth 32
  | .reservedLo => l.reservedLo.setWidth 32

/-- The geometry group of a unit. -/
def State.geomRegs (s : State) : GeomUnit → GeomRegs
  | .fm => s.fm.regs.geom
  | .fi => s.fi.regs.geom
  | .tr => s.tr.regs.geom

/-- A register of kind `RW`, zero-extended. -/
def rwRead (s : State) : RwReg → Word
  | .bchFrameSize => s.bch.regs.frameSize.setWidth 32
  | .bchKbch => s.bch.regs.kbch.setWidth 32
  | .bchFecMode => s.bch.regs.fecMode.setWidth 32
  | .ldpcFrameSize => s.ldpc.regs.frameSize.setWidth 32
  | .ldpcRate => s.ldpc.regs.rate.setWidth 32
  | .ldpcNbch => s.ldpc.regs.nbch.setWidth 32
  | .ldpcType => s.ldpc.regs.type.setWidth 32
  | .ldpcQ => s.ldpc.regs.q.setWidth 32
  | .ldpcQ1 => s.ldpc.regs.q1.setWidth 32
  | .ldpcQ2 => s.ldpc.regs.q2.setWidth 32
  | .ldpcM1 => s.ldpc.regs.m1.setWidth 32
  | .ldpcM2 => s.ldpc.regs.m2.setWidth 32
  | .bilFrameSize => s.bil.regs.frameSize.setWidth 32
  | .bilRate => s.bil.regs.rate.setWidth 32
  | .bilMod => s.bil.regs.mod.setWidth 32
  | .geom u f => geomRead (s.geomRegs u) f
  | .fmTiMode => s.fm.regs.tiMode.setWidth 32
  | .fmTiDepth => s.fm.regs.tiDepth.setWidth 32
  | .fmL1bCells => s.fm.regs.l1bCells.setWidth 32
  | .fmL1dCells => s.fm.regs.l1dCells.setWidth 32
  | .l1b f => l1bRead s.fm.l1 f
  | .fiMode => s.fi.regs.mode.setWidth 32
  | .trPaprMode => s.tr.regs.paprMode.setWidth 32
  | .trNumIter => s.tr.regs.numIter.setWidth 32
  | .trVclip => s.tr.regs.vclip
  | .trShiftOffset => s.tr.regs.shiftOffset.setWidth 32

/-- A register of kind `RO`. -/
def roRead (s : State) : RoReg → Word
  | .status => s.status
  | .errinfo => s.errinfo
  | .errval => s.errval
  | .bchBlkcnt => s.bch.blkcnt
  | .ldpcBlkcnt => s.ldpc.blkcnt
  | .bilBlkcnt => s.bil.blkcnt
  | .fmFramecnt => s.fm.framecnt
  | .fiSymidx => s.fi.symidx
  | .fiFramecnt => s.fi.framecnt
  | .trSymidx => s.tr.symidx
  | .trFramecnt => s.tr.framecnt

/-- `RegRead(i)` (40_system_commands.md R105): `CMD` and an unimplemented index read as 0. -/
def regRead (s : State) (i : BitVec 8) : Word :=
  match regAt i with
  | .cmd => 0#32
  | .rw r => rwRead s r
  | .ro r => roRead s r
  | .unimplemented => 0#32

/-! ## Writing -/

/-- A geometry group with one register written: the low bits of the value, as many as the field has. -/
def geomWrite (g : GeomRegs) (v : Word) : GeomField → GeomRegs
  | .fftSize => { g with fftSize := v.setWidth 2 }
  | .guardInterval => { g with guardInterval := v.setWidth 4 }
  | .pilotPattern => { g with pilotPattern := v.setWidth 5 }
  | .reducedCarriers => { g with reducedCarriers := v.setWidth 3 }
  | .numPreambleSyms => { g with numPreambleSyms := v.setWidth 4 }
  | .numPayloadSyms => { g with numPayloadSyms := v.setWidth 11 }
  | .sbsFirst => { g with sbsFirst := v.setWidth 1 }
  | .l1bMode => { g with l1bMode := v.setWidth 3 }

/-- The L1-Basic bank with one register written. -/
def l1bWrite (l : L1Basic) (v : Word) : L1bField → L1Basic
  | .version => { l with version := v.setWidth 3 }
  | .mimoPilotEncoding => { l with mimoPilotEncoding := v.setWidth 1 }
  | .llsFlag => { l with llsFlag := v.setWidth 1 }
  | .timeInfoFlag => { l with timeInfoFlag := v.setWidth 2 }
  | .returnChannel => { l with returnChannel := v.setWidth 1 }
  | .paprReduction => { l with paprReduction := v.setWidth 2 }
  | .frameLengthMode => { l with frameLengthMode := v.setWidth 1 }
  | .frameLength => { l with frameLength := v.setWidth 10 }
  | .excessSamples => { l with excessSamples := v.setWidth 13 }
  | .timeOffset => { l with timeOffset := v.setWidth 16 }
  | .additionalSamples => { l with additionalSamples := v.setWidth 7 }
  | .numSubframes => { l with numSubframes := v.setWidth 8 }
  | .preambleNumSymbols => { l with preambleNumSymbols := v.setWidth 3 }
  | .preambleReducedCarriers => { l with preambleReducedCarriers := v.setWidth 3 }
  | .detailContentTag => { l with detailContentTag := v.setWidth 2 }
  | .detailSizeBytes => { l with detailSizeBytes := v.setWidth 13 }
  | .detailFecType => { l with detailFecType := v.setWidth 3 }
  | .detailAdditionalParityMode => { l with detailAdditionalParityMode := v.setWidth 2 }
  | .detailTotalCells => { l with detailTotalCells := v.setWidth 19 }
  | .firstSubMimo => { l with firstSubMimo := v.setWidth 1 }
  | .firstSubMiso => { l with firstSubMiso := v.setWidth 2 }
  | .firstSubFftSize => { l with firstSubFftSize := v.setWidth 2 }
  | .firstSubReducedCarriers => { l with firstSubReducedCarriers := v.setWidth 3 }
  | .firstSubGuardInterval => { l with firstSubGuardInterval := v.setWidth 4 }
  | .firstSubNumOfdmSymbols => { l with firstSubNumOfdmSymbols := v.setWidth 11 }
  | .firstSubScatteredPilotPattern => { l with firstSubScatteredPilotPattern := v.setWidth 5 }
  | .firstSubScatteredPilotBoost => { l with firstSubScatteredPilotBoost := v.setWidth 3 }
  | .firstSubSbsFirst => { l with firstSubSbsFirst := v.setWidth 1 }
  | .firstSubSbsLast => { l with firstSubSbsLast := v.setWidth 1 }
  | .reservedHi => { l with reservedHi := v.setWidth 16 }
  | .reservedLo => { l with reservedLo := v }

/-- The state with the geometry group of a unit replaced. -/
def State.withGeomRegs (s : State) (g : GeomRegs) : GeomUnit → State
  | .fm => { s with fm := { s.fm with regs := { s.fm.regs with geom := g } } }
  | .fi => { s with fi := { s.fi with regs := { s.fi.regs with geom := g } } }
  | .tr => { s with tr := { s.tr with regs := { s.tr.regs with geom := g } } }

/-- The state with one register of kind `RW` written: a field of width `w` stores bits `[w-1:0]` (10_state.md R22). -/
def rwWrite (s : State) (v : Word) : RwReg → State
  | .bchFrameSize => { s with bch := { s.bch with regs := { s.bch.regs with frameSize := v.setWidth 1 } } }
  | .bchKbch => { s with bch := { s.bch with regs := { s.bch.regs with kbch := v.setWidth 16 } } }
  | .bchFecMode => { s with bch := { s.bch with regs := { s.bch.regs with fecMode := v.setWidth 2 } } }
  | .ldpcFrameSize => { s with ldpc := { s.ldpc with regs := { s.ldpc.regs with frameSize := v.setWidth 1 } } }
  | .ldpcRate => { s with ldpc := { s.ldpc with regs := { s.ldpc.regs with rate := v.setWidth 4 } } }
  | .ldpcNbch => { s with ldpc := { s.ldpc with regs := { s.ldpc.regs with nbch := v.setWidth 16 } } }
  | .ldpcType => { s with ldpc := { s.ldpc with regs := { s.ldpc.regs with type := v.setWidth 1 } } }
  | .ldpcQ => { s with ldpc := { s.ldpc with regs := { s.ldpc.regs with q := v.setWidth 16 } } }
  | .ldpcQ1 => { s with ldpc := { s.ldpc with regs := { s.ldpc.regs with q1 := v.setWidth 16 } } }
  | .ldpcQ2 => { s with ldpc := { s.ldpc with regs := { s.ldpc.regs with q2 := v.setWidth 16 } } }
  | .ldpcM1 => { s with ldpc := { s.ldpc with regs := { s.ldpc.regs with m1 := v.setWidth 16 } } }
  | .ldpcM2 => { s with ldpc := { s.ldpc with regs := { s.ldpc.regs with m2 := v.setWidth 16 } } }
  | .bilFrameSize => { s with bil := { s.bil with regs := { s.bil.regs with frameSize := v.setWidth 1 } } }
  | .bilRate => { s with bil := { s.bil with regs := { s.bil.regs with rate := v.setWidth 4 } } }
  | .bilMod => { s with bil := { s.bil with regs := { s.bil.regs with mod := v.setWidth 3 } } }
  | .geom u f => s.withGeomRegs (geomWrite (s.geomRegs u) v f) u
  | .fmTiMode => { s with fm := { s.fm with regs := { s.fm.regs with tiMode := v.setWidth 2 } } }
  | .fmTiDepth => { s with fm := { s.fm with regs := { s.fm.regs with tiDepth := v.setWidth 16 } } }
  | .fmL1bCells => { s with fm := { s.fm with regs := { s.fm.regs with l1bCells := v.setWidth 19 } } }
  | .fmL1dCells => { s with fm := { s.fm with regs := { s.fm.regs with l1dCells := v.setWidth 19 } } }
  | .l1b f => { s with fm := { s.fm with l1 := l1bWrite s.fm.l1 v f } }
  | .fiMode => { s with fi := { s.fi with regs := { s.fi.regs with mode := v.setWidth 1 } } }
  | .trPaprMode => { s with tr := { s.tr with regs := { s.tr.regs with paprMode := v.setWidth 2 } } }
  | .trNumIter => { s with tr := { s.tr with regs := { s.tr.regs with numIter := v.setWidth 16 } } }
  | .trVclip => { s with tr := { s.tr with regs := { s.tr.regs with vclip := v } } }
  | .trShiftOffset => { s with tr := { s.tr with regs := { s.tr.regs with shiftOffset := v.setWidth 11 } } }

/-- The unit whose BUILT flag a write to a register clears (10_state.md R25, R27); a record register clears none
(R39). -/
def RwReg.owner : RwReg → Option UnitId
  | .bchFrameSize | .bchKbch | .bchFecMode => some .bch
  | .ldpcFrameSize | .ldpcRate | .ldpcNbch | .ldpcType | .ldpcQ | .ldpcQ1 | .ldpcQ2 | .ldpcM1 | .ldpcM2 => some .ldpc
  | .bilFrameSize | .bilRate | .bilMod => some .bil
  | .geom .fm _ | .fmTiMode | .fmTiDepth | .fmL1bCells | .fmL1dCells => some .fm
  | .geom .fi _ | .fiMode => some .fi
  | .geom .tr _ | .trPaprMode | .trNumIter | .trVclip | .trShiftOffset => some .tr
  | .l1b _ => none

/-- The state with the BUILT flag of a register's owner cleared. -/
def State.clearOwner (s : State) : Option UnitId → State
  | some u => s.clearBuilt u
  | none => s

/-- `RegWrite(i, v)` to an index other than `CMD` (40_system_commands.md R106): a register of kind `RW` stores its field
and clears its unit's BUILT flag; any other index raises `BadReg` with the index as the recorded value
(60_exceptions.md R299). -/
def regWrite (i : BitVec 8) (v : Word) (s : State) : State :=
  match regAt i with
  | .rw r => (rwWrite s v r).clearOwner r.owner
  | .cmd => s
  | .ro _ => raise .badReg 0#4 (i.setWidth 32) s
  | .unimplemented => raise .badReg 0#4 (i.setWidth 32) s

/-! ## Queues -/

/-- `HostPush(q, s)` of bit items (40_system_commands.md R107). -/
def pushBits (q : BitIn) (items : List Byte) (s : State) : State :=
  match q with
  | .bch => { s with bch := { s.bch with inq := s.bch.inq ++ items } }
  | .ldpc => { s with ldpc := { s.ldpc with inq := s.ldpc.inq ++ items } }
  | .bil => { s with bil := { s.bil with inq := s.bil.inq ++ items } }

/-- `HostPush(q, s)` of cell items (40_system_commands.md R107). -/
def pushCells (q : CellIn) (items : List Cell) (s : State) : State :=
  match q with
  | .fmL1b => { s with fm := { s.fm with l1bIn := s.fm.l1bIn ++ items } }
  | .fmL1d => { s with fm := { s.fm with l1dIn := s.fm.l1dIn ++ items } }
  | .fmPlp => { s with fm := { s.fm with plpIn := s.fm.plpIn ++ items } }
  | .fi => { s with fi := { s.fi with inq := s.fi.inq ++ items } }
  | .tr => { s with tr := { s.tr with inq := s.tr.inq ++ items } }

/-- The items a bit output queue holds. -/
def bitOutItems (s : State) : BitOut → List Byte
  | .bch => s.bch.outq
  | .ldpc => s.ldpc.outq
  | .bil => s.bil.outq
  | .fmL1b => s.fm.l1bOut

/-- The items a cell output queue holds. -/
def cellOutItems (s : State) : CellOut → List Cell
  | .fm => s.fm.outq
  | .fi => s.fi.outq
  | .tr => s.tr.outq

/-- A bit output queue without its first `m` items; all of them where it holds fewer (40_system_commands.md R108). -/
def dropBits (q : BitOut) (m : Nat) (s : State) : State :=
  match q with
  | .bch => { s with bch := { s.bch with outq := s.bch.outq.drop m } }
  | .ldpc => { s with ldpc := { s.ldpc with outq := s.ldpc.outq.drop m } }
  | .bil => { s with bil := { s.bil with outq := s.bil.outq.drop m } }
  | .fmL1b => { s with fm := { s.fm with l1bOut := s.fm.l1bOut.drop m } }

/-- A cell output queue without its first `m` items. -/
def dropCells (q : CellOut) (m : Nat) (s : State) : State :=
  match q with
  | .fm => { s with fm := { s.fm with outq := s.fm.outq.drop m } }
  | .fi => { s with fi := { s.fi with outq := s.fi.outq.drop m } }
  | .tr => { s with tr := { s.tr with outq := s.tr.outq.drop m } }

/-- What the host has been answered, with one answer more (20_memory.md R86). -/
def answer (r : HostResult) (s : State) : State :=
  { s with host := { s.host with results := s.host.results ++ [r] } }

/-! ## Host actions -/

/-- The command word an action writes to `CMD`, index 0x00 (10_state.md R24). -/
def commandWord : HostAction → Option Word
  | .regWrite i v => if i = 0#8 then some v else none
  | .regRead _ => none
  | .pushBits _ _ => none
  | .pushCells _ _ => none
  | .popBits _ _ => none
  | .popCells _ _ => none

/-- An action that issues no command (40_system_commands.md R105 to R108). -/
def perform (a : HostAction) (s : State) : State :=
  match a with
  | .regRead i => answer (.regValue i (regRead s i)) s
  | .regWrite i v => regWrite i v s
  | .pushBits q items => pushBits q items s
  | .pushCells q items => pushCells q items s
  | .popBits q m => dropBits q m (answer (.bits q ((bitOutItems s q).take m)) s)
  | .popCells q m => dropCells q m (answer (.cells q ((cellOutItems s q).take m)) s)

/-- A write to `CMD` of a word that encodes no command (60_exceptions.md R294): the recorded unit is 0. -/
def illegalCommand (w : Word) (s : State) : State := raise .illegalCommand 0#4 w s

/-- The state with a list of host actions still to perform. -/
def State.withScript (s : State) (script : List HostAction) : State := { s with host := { s.host with script := script } }

end Sys2Proof.Machine
end

