-- ==== Sys2Proof/Machine/Step.lean ====
section
/-! DEFINITION. One step of a run: the host's next action, complete with the command it issues (20_memory.md R77,
R86). The block fetches no instructions (10_state.md R21); a command is executed when the host writes it. -/

namespace Sys2Proof.Machine

/-- A write of `w` to `CMD`: the command it encodes, or `IllegalCommand` (10_state.md R24, 30_encoding.md R91, R95). -/
def issue (w : Word) (s : State) : Host.Outcome State Fault Refusal :=
  match decode w with
  | .ok i => exec i s
  | .error _ => .next (illegalCommand w s)

/-- One step: the first action of the host's script is taken off it and performed. A run is over when the script is
empty; the block does nothing then (20_memory.md R86, 00_scope.md R17). -/
def step (s : State) : Host.Outcome State Fault Refusal :=
  match s.host.script with
  | [] => .next s
  | a :: rest =>
    match commandWord a with
    | some w => issue w (s.withScript rest)
    | none => .next (perform a (s.withScript rest))

/-- The state in which the host's next action is the write of this command word to `CMD`. Log entry 5. -/
def State.withFetchWord (s : State) (nbits w : Nat) : State :=
  s.withScript (.regWrite 0#8 (tableWord nbits w) :: s.host.script)

end Sys2Proof.Machine
end

