-- ==== Sys2Proof/Safety.lean ====
section
/-! DEFINITION. What counts as a safe state and a safe run, in the words the statements use: a run without error
(60_exceptions.md R301), the meaning of the BUILT flags (10_state.md R25, R27), the invariant every step keeps, and the
unit a command belongs to (20_memory.md R79). -/

namespace Sys2Proof.Machine

open Sys2Proof.Config

/-! ## Errors -/

/-- "The run raised no error" is the statement `STATUS[14:8] = 0` (60_exceptions.md R301). -/
def State.noError (s : State) : Prop := s.status.extractLsb' 8 7 = 0#7

/-- The error record agrees with the flags (10_state.md R26): while no error is recorded, no flag is set and both
registers are 0; a recorded code is that of a class whose flag is set; the unit is 0 to 6; `ERRINFO[31:8]` reads as 0. -/
def errorRecordOk (s : State) : Prop :=
  s.errinfo.extractLsb' 8 24 = 0#24 ∧ s.errUnit.toNat ≤ 6 ∧
    ((s.errCode = 0#4 → s.errinfo = 0#32 ∧ s.errval = 0#32 ∧ s.noError) ∧
      (s.errCode ≠ 0#4 → ∃ e : ErrClass, e.code = s.errCode ∧ s.hasError e = true))

/-- What raising error `e` for a unit does to a state (60_exceptions.md R292): the sticky flag is set and no other bit of
`STATUS` moves; the first error since reset is recorded with its cause, unit and word, a later one leaves the record
alone; nothing else changes. -/
structure Raised (e : ErrClass) (unit : BitVec 4) (val : Word) (s t : State) : Prop where
  flag : t.hasError e = true
  flags : ∀ k, k ≠ e.statusBit → t.status.getLsbD k = s.status.getLsbD k
  first : s.errCode = 0#4 →
    t.errCode = e.code ∧ t.errUnit = unit ∧ t.errinfo.extractLsb' 8 24 = 0#24 ∧ t.errval = val
  later : s.errCode ≠ 0#4 → t.errinfo = s.errinfo ∧ t.errval = s.errval
  rest : t = { s with status := t.status, errinfo := t.errinfo, errval := t.errval }

/-- The bits of `STATUS` that read as 0: 7:6 and 31:15 (10_state.md R25). -/
def statusReservedZero (s : State) : Prop := s.status &&& 0xFFFF80C0#32 = 0#32

/-! ## Built units -/

/-- A unit that is built holds the derived state its present configuration gives (10_state.md R25, R27). -/
structure BuiltValid (s : State) : Prop where
  bch : s.isBuilt .bch = true → bchDerive s.tables s.params s.bch.regs = some s.bch.der
  ldpc : s.isBuilt .ldpc = true → ldpcDerive s.tables s.params s.ldpc.regs = some s.ldpc.der
  bil : s.isBuilt .bil = true → bilDerive s.tables s.params s.bil.regs = some s.bil.der
  fm : s.isBuilt .fm = true → fmDerive s.tables s.params s.fm.regs = some s.fm.der
  fi : s.isBuilt .fi = true → fiDerive s.tables s.params s.fi.regs = some s.fi.der
  tr : s.isBuilt .tr = true → trDerive s.tables s.params s.tr.regs = some s.tr.der

/-- The symbol index of a built unit is one of its frame's symbols (10_state.md R47). -/
def symbolIndexOk (s : State) : Prop :=
  (s.isBuilt .fi = true → s.fi.symidx.toNat < s.fi.der.geom.symbols) ∧
    (s.isBuilt .tr = true → s.tr.symidx.toNat < s.tr.der.geom.symbols)

/-- Every item of a bit output queue is 0x00 or 0x01 (20_memory.md R72). -/
def outputBitsOk (s : State) : Prop :=
  ∀ q : BitOut, ∀ x ∈ bitOutItems s q, isBitItem x = true

/-- The invariant of the block. -/
structure Inv (s : State) : Prop where
  reserved : statusReservedZero s
  record : errorRecordOk s
  built : BuiltValid s
  index : symbolIndexOk s
  outputs : outputBitsOk s

/-! ## Units and blocks -/

end Sys2Proof.Machine

namespace Sys2Proof

open Sys2Proof.Machine

/-- The unit a command belongs to; none for the system commands (30_encoding.md R91). -/
def Instr.unit : Instr → Option UnitId
  | .sysNop => none
  | .sysReset => none
  | .bchBuild => some .bch
  | .bchEnc _ => some .bch
  | .ldpcBuild => some .ldpc
  | .ldpcEnc _ => some .ldpc
  | .bilBuild => some .bil
  | .bilPerm _ => some .bil
  | .fmBuild => some .fm
  | .fmL1b => some .fm
  | .fmL1d => some .fm
  | .fmMap _ => some .fm
  | .fiBuild => some .fi
  | .fiSym _ => some .fi
  | .trBuild => some .tr
  | .trSym _ => some .tr

/-- The unit of a command that needs a built unit: the six that take a count and `FM.L1B` (60_exceptions.md R297). -/
def Instr.streams : Instr → Option UnitId
  | .bchEnc _ => some .bch
  | .ldpcEnc _ => some .ldpc
  | .bilPerm _ => some .bil
  | .fmL1b => some .fm
  | .fmMap _ => some .fm
  | .fiSym _ => some .fi
  | .trSym _ => some .tr
  | .sysNop => none
  | .sysReset => none
  | .bchBuild => none
  | .ldpcBuild => none
  | .bilBuild => none
  | .fmBuild => none
  | .fmL1d => none
  | .fiBuild => none
  | .trBuild => none

/-- The unit of a BUILD command (40_system_commands.md R112). -/
def Instr.builds : Instr → Option UnitId
  | .bchBuild => some .bch
  | .ldpcBuild => some .ldpc
  | .bilBuild => some .bil
  | .fmBuild => some .fm
  | .fiBuild => some .fi
  | .trBuild => some .tr
  | .sysNop => none
  | .sysReset => none
  | .bchEnc _ => none
  | .ldpcEnc _ => none
  | .bilPerm _ => none
  | .fmL1b => none
  | .fmL1d => none
  | .fmMap _ => none
  | .fiSym _ => none
  | .trSym _ => none

end Sys2Proof

namespace Sys2Proof.Machine

open Sys2Proof.Config

/-- Block `k` of length `len` of a queue: the items numbered `k*len .. (k+1)*len-1` (20_memory.md R74). -/
def blockAt {α : Type} (q : List α) (len k : Nat) : List α := (q.drop (k * len)).take len

/-- The width of the field of a register of kind `RW` (10_state.md R30 to R43). -/
def RwReg.width : RwReg → Nat
  | .bchFrameSize => 1
  | .bchKbch => 16
  | .bchFecMode => 2
  | .ldpcFrameSize => 1
  | .ldpcRate => 4
  | .ldpcNbch => 16
  | .ldpcType => 1
  | .ldpcQ => 16
  | .ldpcQ1 => 16
  | .ldpcQ2 => 16
  | .ldpcM1 => 16
  | .ldpcM2 => 16
  | .bilFrameSize => 1
  | .bilRate => 4
  | .bilMod => 3
  | .geom _ .fftSize => 2
  | .geom _ .guardInterval => 4
  | .geom _ .pilotPattern => 5
  | .geom _ .reducedCarriers => 3
  | .geom _ .numPreambleSyms => 4
  | .geom _ .numPayloadSyms => 11
  | .geom _ .sbsFirst => 1
  | .geom _ .l1bMode => 3
  | .fmTiMode => 2
  | .fmTiDepth => 16
  | .fmL1bCells => 19
  | .fmL1dCells => 19
  | .l1b f => l1bWidth f
  | .fiMode => 1
  | .trPaprMode => 2
  | .trNumIter => 16
  | .trVclip => 32
  | .trShiftOffset => 11
where
  /-- The width of an L1-Basic field (10_state.md R39). -/
  l1bWidth : L1bField → Nat
    | .version => 3
    | .mimoPilotEncoding => 1
    | .llsFlag => 1
    | .timeInfoFlag => 2
    | .returnChannel => 1
    | .paprReduction => 2
    | .frameLengthMode => 1
    | .frameLength => 10
    | .excessSamples => 13
    | .timeOffset => 16
    | .additionalSamples => 7
    | .numSubframes => 8
    | .preambleNumSymbols => 3
    | .preambleReducedCarriers => 3
    | .detailContentTag => 2
    | .detailSizeBytes => 13
    | .detailFecType => 3
    | .detailAdditionalParityMode => 2
    | .detailTotalCells => 19
    | .firstSubMimo => 1
    | .firstSubMiso => 2
    | .firstSubFftSize => 2
    | .firstSubReducedCarriers => 3
    | .firstSubGuardInterval => 4
    | .firstSubNumOfdmSymbols => 11
    | .firstSubScatteredPilotPattern => 5
    | .firstSubScatteredPilotBoost => 3
    | .firstSubSbsFirst => 1
    | .firstSubSbsLast => 1
    | .reservedHi => 16
    | .reservedLo => 32

/-- The indices of the registers of kind `RW`, as 10_state.md R65 lists them. -/
def isRwIndex (i : BitVec 8) : Bool :=
  let n := i.toNat
  (0x10 ≤ n && n ≤ 0x12) || (0x20 ≤ n && n ≤ 0x28) || (0x30 ≤ n && n ≤ 0x32) || (0x40 ≤ n && n ≤ 0x4B)
    || (0x50 ≤ n && n ≤ 0x6E) || (0x80 ≤ n && n ≤ 0x88) || (0xA0 ≤ n && n ≤ 0xAB)

/-- The index ranges whose write clears a unit's BUILT flag (10_state.md R25). -/
def ownedBy (u : UnitId) (i : BitVec 8) : Bool :=
  let n := i.toNat
  match u with
  | .bch => 0x10 ≤ n && n ≤ 0x12
  | .ldpc => 0x20 ≤ n && n ≤ 0x28
  | .bil => 0x30 ≤ n && n ≤ 0x32
  | .fm => 0x40 ≤ n && n ≤ 0x4B
  | .fi => 0x80 ≤ n && n ≤ 0x88
  | .tr => 0xA0 ≤ n && n ≤ 0xAB

/-- Every queue of the block is empty. -/
def allQueuesEmpty (s : State) : Prop :=
  s.bch.inq = [] ∧ s.bch.outq = [] ∧ s.ldpc.inq = [] ∧ s.ldpc.outq = [] ∧ s.bil.inq = [] ∧ s.bil.outq = [] ∧
    s.fm.l1bOut = [] ∧ s.fm.l1bIn = [] ∧ s.fm.l1dIn = [] ∧ s.fm.plpIn = [] ∧ s.fm.outq = [] ∧
    s.fi.inq = [] ∧ s.fi.outq = [] ∧ s.tr.inq = [] ∧ s.tr.outq = []

/-- The value of a register that holds the low `w` bits of `v` (10_state.md R22). -/
def lowBits (v : Word) (w : Nat) : Word := (v.setWidth w).setWidth 32

/-! ## Configurations a BUILD accepts, as the spec words its checks -/

/-- The checks of `BCH.BUILD` (41_bch.md R121). -/
structure BchConfigOk (t : Tables) (p : Params) (u : BchRegs) : Prop where
  mode : ∃ mode, fecModeOf p.enums u.fecMode = some mode
  nonzero : u.kbch.toNat ≠ 0
  bytes : u.kbch.toNat % 8 = 0
  degree : (bchGenerator t (frameSizeOf p.enums u.frameSize)).log2 = bchR.get (frameSizeOf p.enums u.frameSize)

/-- The number of parity bits of a configuration of unit 2 (10_state.md R33). -/
def ldpcParityCount (t : Tables) (p : Params) (u : LdpcRegs) : Nat :=
  t.frameBits.get (frameSizeOf p.enums u.frameSize) - u.nbch.toNat

/-- The parity bit, of `parity`, that member `m` of a group of 360 contributes to through the address `a`: type B by
42_ldpc.md R152, type A in its two regimes by R153. -/
def ldpcParityIndex (p : Params) (u : LdpcRegs) (parity a m : Nat) : Nat :=
  match ldpcTypeOf p.enums u.type with
  | .typeB => (a + m * u.q.toNat) % parity
  | .typeA =>
    if a < u.m1.toNat then (a + m * u.q1.toNat) % u.m1.toNat
    else u.m1.toNat + ((a - u.m1.toNat) + m * u.q2.toNat) % u.m2.toNat

/-- The indices that the rows' addresses contribute to parity bit `k`, by row, address and member of the group, where
`index a m` is the parity bit that member `m` contributes to through the address `a` (42_ldpc.md R152, R153). -/
def ldpcContributions (index : Nat → Nat → Nat) (rows : List (List Nat)) (k : Nat) : List Nat :=
  rows.zipIdx.flatMap fun e =>
    e.1.flatMap fun a =>
      ((List.range 360).filter (fun m => index a m == k)).map (fun m => 360 * e.2 + m)

/-- The checks (a) to (e) of `LDPC.BUILD` (42_ldpc.md R151); `rows` is the table entry. -/
structure LdpcConfigOk (t : Tables) (p : Params) (u : LdpcRegs) (rows : List (List Nat)) : Prop where
  entry : ∃ rate, codeRateOf p.enums u.rate = some rate ∧ t.ldpcRows.lookup (frameSizeOf p.enums u.frameSize, rate) = some rows
  nonzero : u.nbch.toNat ≠ 0
  groups : u.nbch.toNat % 360 = 0
  room : u.nbch.toNat < t.frameBits.get (frameSizeOf p.enums u.frameSize)
  typeA : ldpcTypeOf p.enums u.type = .typeA →
    u.q1.toNat ≠ 0 ∧ u.q2.toNat ≠ 0 ∧ u.m1.toNat ≠ 0 ∧ u.m2.toNat ≠ 0 ∧ u.m1.toNat + u.m2.toNat = ldpcParityCount t p u
  typeB : ldpcTypeOf p.enums u.type = .typeB → u.q.toNat ≠ 0 ∧ 360 * rows.length = u.nbch.toNat
  cover : u.nbch.toNat ≤ 360 * rows.length
  fit : 360 * rows.length ≤ t.frameBits.get (frameSizeOf p.enums u.frameSize)
  addresses : ∀ row ∈ rows, ∀ a ∈ row, a < ldpcParityCount t p u

/-- The order condition (42_ldpc.md R154). -/
def LdpcOrder (t : Tables) (p : Params) (u : LdpcRegs) (rows : List (List Nat)) : Prop :=
  ∀ k, k < ldpcParityCount t p u →
    ∀ i ∈ ldpcContributions (ldpcParityIndex p u (ldpcParityCount t p u)) rows k, i < u.nbch.toNat + k

/-- The checks of `BIL.BUILD` (43_bit_interleaver.md R171); `perm` is the table entry. -/
structure BilConfigOk (t : Tables) (p : Params) (u : BilRegs) (perm : List Nat) : Prop where
  entry : ∃ rate mod, codeRateOf p.enums u.rate = some rate ∧ modulationOf p.enums u.mod = some mod ∧
    t.bilPerm.lookup (frameSizeOf p.enums u.frameSize, rate, mod) = some perm
  permutes : perm.Perm (List.range (t.frameBits.get (frameSizeOf p.enums u.frameSize)))

/-- A well-formed geometry record (10_state.md R37). -/
structure GeometryWf (p : Params) (k : GeomKey) (geo : Geometry) : Prop where
  symbols : geo.symbols = k.numPreambleSyms.toNat + k.numPayloadSyms.toNat
  lengths : geo.frameCells.length = geo.symbols ∧ geo.symType.length = geo.symbols ∧ geo.carriers.length = geo.symbols
  total : geo.frameCells.sum = geo.totalCells
  preambles : ∀ l, l < geo.symbols → (geo.symType.getD l .data = .preamble ↔ l < k.numPreambleSyms.toNat)
  last : geo.symType.getD (geo.symbols - 1) .data = .sbs
  sbsFirst : k.sbsFirst = 1#1 → geo.symType.getD k.numPreambleSyms.toNat .data = .sbs
  dataFirst : k.sbsFirst = 0#1 →
    geo.symType.getD k.numPreambleSyms.toNat .data = .data ∨ k.numPreambleSyms.toNat = geo.symbols - 1
  firstCells : geo.frameCells.getD 0 0 = geo.nFp
  cells : ∀ l, 0 < l → l < geo.symbols →
    (geo.symType.getD l .data = .preamble → geo.frameCells.getD l 0 = geo.nP) ∧
      (geo.symType.getD l .data = .sbs → geo.frameCells.getD l 0 = geo.nSbs) ∧
      (geo.symType.getD l .data = .data → geo.frameCells.getD l 0 = geo.nData)
  ceilings : ∀ c ∈ [geo.nFp, geo.nP, geo.nSbs, geo.nData], 1 ≤ c ∧ c ≤ p.fiMaxStates.get k.fft
  carriers : ∀ c ∈ geo.carriers, 1 ≤ c

/-- The geometry checks of `FM.BUILD`, `FI.BUILD` and `TR.BUILD`: the eight fields in range, and an entry of `GEOM` that is
well-formed (44_frame_mapper.md R181 (a), (b)). -/
structure GeomConfigOk (t : Tables) (p : Params) (g : GeomRegs) (k : GeomKey) (geo : Geometry) : Prop where
  fft : fftOf p.enums g.fftSize = some k.fft
  guardInterval : guardIntervalOf p.enums g.guardInterval = some k.guardInterval
  pilotPattern : pilotPatternOf p.enums g.pilotPattern = some k.pilotPattern
  reducedCarriers : g.reducedCarriers = k.reducedCarriers
  numPreambleSyms : g.numPreambleSyms = k.numPreambleSyms
  numPayloadSyms : g.numPayloadSyms = k.numPayloadSyms
  sbsFirst : g.sbsFirst = k.sbsFirst
  l1bMode : g.l1bMode = k.l1bMode
  somePreamble : 1 ≤ g.numPreambleSyms.toNat
  somePayload : 1 ≤ g.numPayloadSyms.toNat
  entry : t.geom.lookup k = some geo
  wf : GeometryWf p k geo

/-- The remaining checks of `FM.BUILD` (44_frame_mapper.md R181 (c), (d)). -/
def FmCellsOk (p : Params) (u : FmRegs) (geo : Geometry) : Prop :=
  tiModeOf p.enums u.tiMode = some .off ∧ u.l1bCells.toNat + u.l1dCells.toNat ≤ geo.totalCells

/-- 45_freq_interleaver.md R211 (b), with `FI_MAX_STATES[fft] = 2^nr`. -/
structure FiGeneratorOk (t : Tables) (p : Params) (fft : Fft) (symbols nr : Nat) : Prop where
  states : p.fiMaxStates.get fft = 2 ^ nr
  wide : 2 ≤ nr
  even : (t.fiBitpermEven.get fft).Perm (List.range (nr - 1))
  odd : (t.fiBitpermOdd.get fft).Perm (List.range (nr - 1))
  taps : ∀ tap ∈ t.fiLogic.get fft, tap < nr - 1
  offsets : ∀ k, k ≤ (symbols - 1) / 2 → ∃ off, (t.fiSymoff.get fft)[k]? = some off ∧ off < 2 ^ nr

/-- Each of the eight vectors of a symbol is a permutation of `0 .. ceiling-1` (45_freq_interleaver.md R219). -/
structure FiVectorsPerm (geo : Geometry) (v : FiVectors) : Prop where
  hevenFP : v.hevenFP.Perm (List.range geo.nFp)
  hoddFP : v.hoddFP.Perm (List.range geo.nFp)
  hevenP : v.hevenP.Perm (List.range geo.nP)
  hoddP : v.hoddP.Perm (List.range geo.nP)
  hevenSBS : v.hevenSBS.Perm (List.range geo.nSbs)
  hoddSBS : v.hoddSBS.Perm (List.range geo.nSbs)
  heven : v.heven.Perm (List.range geo.nData)
  hodd : v.hodd.Perm (List.range geo.nData)

/-- 46_papr_tr.md R241 (b), the checks of mode `PAPR_TR`. -/
structure TrTonesOk (t : Tables) (p : Params) (u : TrRegs) (k : GeomKey) : Prop where
  nonempty : t.trTones.get k.fft ≠ []
  below : ∀ tone ∈ t.trTones.get k.fft, tone < p.fiMaxStates.get k.fft
  distinct : (t.trTones.get k.fft).Nodup
  dx : ∃ x, t.pilotDx.lookup k.pilotPattern = some x
  dy : ∃ y, t.pilotDy.lookup k.pilotPattern = some y ∧ 1 ≤ y
  clip : ∃ v, sampleUnits u.vclip = some v ∧ 0 < v

/-! ## Streams cut into symbols -/

/-- The index within its frame of the `k`-th symbol from now, when the next one has index `idx` (10_state.md R47). -/
def symbolAt (geo : Geometry) (idx : Word) (k : Nat) : Nat := (idx.toNat + k) % geo.symbols

/-- The cells the next `k` symbols take (45_freq_interleaver.md R220). -/
def cellsBefore (geo : Geometry) (idx : Word) (k : Nat) : Nat :=
  ((List.range k).map (fun j => geo.frameCells.getD (symbolAt geo idx j) 0)).sum

/-- The `k`-th symbol from now in the input queue of unit 5. -/
def fiBlock (u : FiUnit) (k : Nat) : List Cell :=
  (u.inq.drop (cellsBefore u.der.geom u.symidx k)).take (u.der.geom.frameCells.getD (symbolAt u.der.geom u.symidx k) 0)

/-- Whether the `k`-th symbol from now is one that unit 6 reduces: mode `PAPR_TR` and not the first of its frame
(46_papr_tr.md R242). -/
def trReduces (u : TrUnit) (k : Nat) : Bool := decide (u.der.mode = .tr ∧ symbolAt u.der.geom u.symidx k ≠ 0)

/-- The items of a bit string: the `r` low bits of a number, the most significant first (00_scope.md R10). -/
def bitString (r v : Nat) : List Byte := (List.range r).map (fun i => bitItem (v.testBit (r - 1 - i)))

end Sys2Proof.Machine
end

