-- ==== Sys2Proof/Certificates/Slice0/Obligations.lean ====
section
/-! DEFINITION. The statements for the provers. Each docstring names the rules of the spec it rests on. -/

section

open Sys2Proof Sys2Proof.Machine Sys2Proof.Config

/-! ## Commands and their words -/

/-- 10_state.md R24: a write of `w` to `CMD` executes the command `w` encodes, on the state whose host has that action
done; `CMD` reads as 0. A command placed at the head of the host's script is the one the next step runs. -/
def Obligations.StepRunsDecodedCommand : Prop :=
  (∀ (s : State) (w : Word) (i : Instr) (rest : List HostAction),
    s.host.script = .regWrite 0x00#8 w :: rest → decode w = .ok i →
      i.wellFormed = true ∧ step s = exec i (s.withScript rest)) ∧
  (∀ (s : State) (w : Word) (i : Instr), decode w = .ok i → step (s.withFetchWord 32 w.toNat) = exec i s) ∧
  ∀ s : State, regRead s 0x00#8 = 0#32

/-- 30_encoding.md R95 and 60_exceptions.md R294: which words encode no command, by their fields, and that writing one
records `IllegalCommand` for unit 0 with the word, and does nothing else. -/
def Obligations.IllegalWordIsRecorded : Prop :=
  (∀ w : Word,
    let unit := w.toNat / 2 ^ 28
    let op := w.toNat / 2 ^ 24 % 16
    let z := w.toNat / 2 ^ 16 % 256
    let n := w.toNat % 2 ^ 16
    let counted := (unit ∈ [1, 2, 3, 5, 6] ∧ op = 1) ∨ (unit = 4 ∧ op = 3)
    (∀ i, decode w ≠ .ok i) ↔
      (7 ≤ unit ∨ (unit ∈ [0, 1, 2, 3, 5, 6] ∧ 2 ≤ op) ∨ (unit = 4 ∧ 4 ≤ op) ∨ z ≠ 0 ∨ (n ≠ 0 ∧ ¬ counted))) ∧
  ∀ (s : State) (w : Word) (rest : List HostAction),
    s.host.script = .regWrite 0x00#8 w :: rest → (∀ i, decode w ≠ .ok i) →
      ∃ t, step s = .next t ∧ Raised .illegalCommand 0#4 w (s.withScript rest) t

/-- 30_encoding.md R91, R92: the decoder gives back every well-formed command from its word. -/
def Obligations.DecodeInvertsEncode : Prop :=
  ∀ i : Instr, i.wellFormed = true → decode (encode i) = .ok i

/-- 30_encoding.md R91, R93: a word that decodes is the word of a well-formed command, that one alone. -/
def Obligations.DecodedWordIsItsEncoding : Prop :=
  ∀ (w : Word) (i : Instr), decode w = .ok i → i.wellFormed = true ∧ encode i = w

/-- 30_encoding.md R93 and R92: a word is a command exactly when it matches the command's row, and the count is its low
sixteen bits. -/
def Obligations.OpcodeMapIsExact : Prop :=
  (∀ w : Word,
    (w &&& 0xFFFFFFFF#32 = 0x00000000#32 ↔ decode w = .ok .sysNop) ∧
    (w &&& 0xFFFFFFFF#32 = 0x01000000#32 ↔ decode w = .ok .sysReset) ∧
    (w &&& 0xFFFFFFFF#32 = 0x10000000#32 ↔ decode w = .ok .bchBuild) ∧
    (w &&& 0xFFFF0000#32 = 0x11000000#32 ↔ ∃ n, decode w = .ok (.bchEnc n)) ∧
    (w &&& 0xFFFFFFFF#32 = 0x20000000#32 ↔ decode w = .ok .ldpcBuild) ∧
    (w &&& 0xFFFF0000#32 = 0x21000000#32 ↔ ∃ n, decode w = .ok (.ldpcEnc n)) ∧
    (w &&& 0xFFFFFFFF#32 = 0x30000000#32 ↔ decode w = .ok .bilBuild) ∧
    (w &&& 0xFFFF0000#32 = 0x31000000#32 ↔ ∃ n, decode w = .ok (.bilPerm n)) ∧
    (w &&& 0xFFFFFFFF#32 = 0x40000000#32 ↔ decode w = .ok .fmBuild) ∧
    (w &&& 0xFFFFFFFF#32 = 0x41000000#32 ↔ decode w = .ok .fmL1b) ∧
    (w &&& 0xFFFFFFFF#32 = 0x42000000#32 ↔ decode w = .ok .fmL1d) ∧
    (w &&& 0xFFFF0000#32 = 0x43000000#32 ↔ ∃ n, decode w = .ok (.fmMap n)) ∧
    (w &&& 0xFFFFFFFF#32 = 0x50000000#32 ↔ decode w = .ok .fiBuild) ∧
    (w &&& 0xFFFF0000#32 = 0x51000000#32 ↔ ∃ n, decode w = .ok (.fiSym n)) ∧
    (w &&& 0xFFFFFFFF#32 = 0x60000000#32 ↔ decode w = .ok .trBuild) ∧
    (w &&& 0xFFFF0000#32 = 0x61000000#32 ↔ ∃ n, decode w = .ok (.trSym n))) ∧
  ∀ (w : Word) (n : Nat),
    (decode w = .ok (.bchEnc n) ∨ decode w = .ok (.ldpcEnc n) ∨ decode w = .ok (.bilPerm n) ∨
      decode w = .ok (.fmMap n) ∨ decode w = .ok (.fiSym n) ∨ decode w = .ok (.trSym n)) → n = w.toNat % 65536

/-- 30_encoding.md R91, R93: a few words written out, one of each unit. -/
def Obligations.WrittenWordsDecode : Prop :=
  decode 0x01000000#32 = .ok .sysReset ∧ decode 0x11000003#32 = .ok (.bchEnc 3) ∧
    decode 0x2100FFFF#32 = .ok (.ldpcEnc 65535) ∧ decode 0x31008000#32 = .ok (.bilPerm 32768) ∧
    decode 0x42000000#32 = .ok .fmL1d ∧ decode 0x43000001#32 = .ok (.fmMap 1) ∧
    decode 0x50000000#32 = .ok .fiBuild ∧ decode 0x61000100#32 = .ok (.trSym 256)

/-! ## The host's accesses -/

/-- 40_system_commands.md R105: what each register index reads as, over the whole map of 10_state.md R23, and that a read
records the value and does nothing else. -/
def Obligations.RegisterReads : Prop :=
  (∀ (s : State) (i : BitVec 8) (rest : List HostAction), s.host.script = .regRead i :: rest →
    step s = .next { s with host := ⟨rest, s.host.results ++ [.regValue i (regRead s i)]⟩ }) ∧
  (∀ s : State,
    let geom (g : GeomRegs) : List Word :=
      [g.fftSize.setWidth 32, g.guardInterval.setWidth 32, g.pilotPattern.setWidth 32, g.reducedCarriers.setWidth 32,
        g.numPreambleSyms.setWidth 32, g.numPayloadSyms.setWidth 32, g.sbsFirst.setWidth 32, g.l1bMode.setWidth 32]
    let read (base len : Nat) : List Word := (List.range len).map (fun k => regRead s (BitVec.ofNat 8 (base + k)))
    let b := s.bch.regs
    let l := s.ldpc.regs
    let f := s.fm.l1
    read 0x00 4 = [0#32, s.status, s.errinfo, s.errval] ∧
    read 0x10 4 = [b.frameSize.setWidth 32, b.kbch.setWidth 32, b.fecMode.setWidth 32, s.bch.blkcnt] ∧
    read 0x20 10 =
      [l.frameSize.setWidth 32, l.rate.setWidth 32, l.nbch.setWidth 32, l.type.setWidth 32, l.q.setWidth 32,
        l.q1.setWidth 32, l.q2.setWidth 32, l.m1.setWidth 32, l.m2.setWidth 32, s.ldpc.blkcnt] ∧
    read 0x30 4 =
      [s.bil.regs.frameSize.setWidth 32, s.bil.regs.rate.setWidth 32, s.bil.regs.mod.setWidth 32, s.bil.blkcnt] ∧
    read 0x40 8 = geom s.fm.regs.geom ∧
    read 0x48 5 =
      [s.fm.regs.tiMode.setWidth 32, s.fm.regs.tiDepth.setWidth 32, s.fm.regs.l1bCells.setWidth 32,
        s.fm.regs.l1dCells.setWidth 32, s.fm.framecnt] ∧
    read 0x50 31 =
      [f.version.setWidth 32, f.mimoPilotEncoding.setWidth 32, f.llsFlag.setWidth 32, f.timeInfoFlag.setWidth 32,
        f.returnChannel.setWidth 32, f.paprReduction.setWidth 32, f.frameLengthMode.setWidth 32,
        f.frameLength.setWidth 32, f.excessSamples.setWidth 32, f.timeOffset.setWidth 32,
        f.additionalSamples.setWidth 32, f.numSubframes.setWidth 32, f.preambleNumSymbols.setWidth 32,
        f.preambleReducedCarriers.setWidth 32, f.detailContentTag.setWidth 32, f.detailSizeBytes.setWidth 32,
        f.detailFecType.setWidth 32, f.detailAdditionalParityMode.setWidth 32, f.detailTotalCells.setWidth 32,
        f.firstSubMimo.setWidth 32, f.firstSubMiso.setWidth 32, f.firstSubFftSize.setWidth 32,
        f.firstSubReducedCarriers.setWidth 32, f.firstSubGuardInterval.setWidth 32,
        f.firstSubNumOfdmSymbols.setWidth 32, f.firstSubScatteredPilotPattern.setWidth 32,
        f.firstSubScatteredPilotBoost.setWidth 32, f.firstSubSbsFirst.setWidth 32, f.firstSubSbsLast.setWidth 32,
        f.reservedHi.setWidth 32, f.reservedLo.setWidth 32] ∧
    read 0x80 8 = geom s.fi.regs.geom ∧
    read 0x88 3 = [s.fi.regs.mode.setWidth 32, s.fi.symidx, s.fi.framecnt] ∧
    read 0xA0 8 = geom s.tr.regs.geom ∧
    read 0xA8 6 =
      [s.tr.regs.paprMode.setWidth 32, s.tr.regs.numIter.setWidth 32, s.tr.regs.vclip,
        s.tr.regs.shiftOffset.setWidth 32, s.tr.symidx, s.tr.framecnt]) ∧
  ∀ (s : State) (i : BitVec 8),
    (∀ r ∈ [(0x00, 4), (0x10, 4), (0x20, 10), (0x30, 4), (0x40, 13), (0x50, 31), (0x80, 11), (0xA0, 14)],
      ¬(r.1 ≤ i.toNat ∧ i.toNat < r.1 + r.2)) → regRead s i = 0#32

/-- 40_system_commands.md R106, the store: a write to an index of kind `RW` (those of 10_state.md R65) leaves its register with the low bits of the
value, as many as the field has, clears the BUILT flag of the unit whose range of 10_state.md R25 holds the index, and
leaves every other register, every queue, counter and derived table alone. A record register (0x50 to 0x6E) clears no
flag. -/
def Obligations.RegisterWriteStoresItsField : Prop :=
  (∀ i : BitVec 8, isRwIndex i = true ↔ ∃ r, regAt i = .rw r) ∧
  ∀ (s : State) (i : BitVec 8) (v : Word) (r : RwReg) (rest : List HostAction),
    s.host.script = .regWrite i v :: rest → regAt i = .rw r →
    ∃ t, step s = .next t ∧
      regRead t i = lowBits v r.width ∧
      (∀ j, j ≠ i → j ≠ 0x01#8 → regRead t j = regRead s j) ∧
      (∀ u, ownedBy u i = true → t.status = clearFlag s.status u.builtBit) ∧
      ((∀ u, ownedBy u i = false) → t.status = s.status) ∧
      t =
        { s with
          status := t.status
          bch := { s.bch with regs := t.bch.regs }
          ldpc := { s.ldpc with regs := t.ldpc.regs }
          bil := { s.bil with regs := t.bil.regs }
          fm := { s.fm with regs := t.fm.regs, l1 := t.fm.l1 }
          fi := { s.fi with regs := t.fi.regs }
          tr := { s.tr with regs := t.tr.regs }
          host := { s.host with script := rest } }

/-- 60_exceptions.md R299: a write to a read-only or unlisted index records `BadReg` for unit 0 with the index, and
drops the value; a read of one is no error, and returns the register or 0. -/
def Obligations.BadRegisterWriteIsRecorded : Prop :=
  ∀ (s : State) (i : BitVec 8) (rest : List HostAction), isRwIndex i = false → i ≠ 0x00#8 →
    (∀ v, s.host.script = .regWrite i v :: rest →
      ∃ t, step s = .next t ∧ Raised .badReg 0#4 (i.setWidth 32) (s.withScript rest) t) ∧
    (s.host.script = .regRead i :: rest →
      step s = .next { s with host := ⟨rest, s.host.results ++ [.regValue i (regRead s i)]⟩ }) ∧
    [0x01#8, 0x02#8, 0x03#8, 0x13#8, 0x29#8, 0x33#8, 0x4C#8, 0x89#8, 0x8A#8, 0xAC#8, 0xAD#8].map (regRead s) =
      [s.status, s.errinfo, s.errval, s.bch.blkcnt, s.ldpc.blkcnt, s.bil.blkcnt, s.fm.framecnt, s.fi.symidx,
        s.fi.framecnt, s.tr.symidx, s.tr.framecnt] ∧
    (i ∉ [0x01#8, 0x02#8, 0x03#8, 0x13#8, 0x29#8, 0x33#8, 0x4C#8, 0x89#8, 0x8A#8, 0xAC#8, 0xAD#8] → regRead s i = 0#32)

/-- 40_system_commands.md R107, R108: a push appends to one input queue; a pop returns the first items of one output queue, at
most as many as it holds, and keeps the rest in order; neither does anything else. -/
def Obligations.QueuePortMovesItems : Prop :=
  ((∀ (s : State) (q : BitIn) (items : List Byte) (rest : List HostAction), s.host.script = .pushBits q items :: rest →
      step s = .next
        { s with
          bch := { s.bch with inq := if q = .bch then s.bch.inq ++ items else s.bch.inq }
          ldpc := { s.ldpc with inq := if q = .ldpc then s.ldpc.inq ++ items else s.ldpc.inq }
          bil := { s.bil with inq := if q = .bil then s.bil.inq ++ items else s.bil.inq }
          host := { s.host with script := rest } }) ∧
    ∀ (s : State) (q : CellIn) (items : List Cell) (rest : List HostAction), s.host.script = .pushCells q items :: rest →
      step s = .next
        { s with
          fm :=
            { s.fm with
              l1bIn := if q = .fmL1b then s.fm.l1bIn ++ items else s.fm.l1bIn
              l1dIn := if q = .fmL1d then s.fm.l1dIn ++ items else s.fm.l1dIn
              plpIn := if q = .fmPlp then s.fm.plpIn ++ items else s.fm.plpIn }
          fi := { s.fi with inq := if q = .fi then s.fi.inq ++ items else s.fi.inq }
          tr := { s.tr with inq := if q = .tr then s.tr.inq ++ items else s.tr.inq }
          host := { s.host with script := rest } }) ∧
  (∀ (s : State) (q : BitOut) (m : Nat) (rest : List HostAction), s.host.script = .popBits q m :: rest →
      step s = .next
        { s with
          bch := { s.bch with outq := if q = .bch then s.bch.outq.drop m else s.bch.outq }
          ldpc := { s.ldpc with outq := if q = .ldpc then s.ldpc.outq.drop m else s.ldpc.outq }
          bil := { s.bil with outq := if q = .bil then s.bil.outq.drop m else s.bil.outq }
          fm := { s.fm with l1bOut := if q = .fmL1b then s.fm.l1bOut.drop m else s.fm.l1bOut }
          host := ⟨rest, s.host.results ++ [.bits q ((bitOutItems s q).take (min m (bitOutItems s q).length))]⟩ }) ∧
    ∀ (s : State) (q : CellOut) (m : Nat) (rest : List HostAction), s.host.script = .popCells q m :: rest →
      step s = .next
        { s with
          fm := { s.fm with outq := if q = .fm then s.fm.outq.drop m else s.fm.outq }
          fi := { s.fi with outq := if q = .fi then s.fi.outq.drop m else s.fi.outq }
          tr := { s.tr with outq := if q = .tr then s.tr.outq.drop m else s.tr.outq }
          host := ⟨rest, s.host.results ++ [.cells q ((cellOutItems s q).take (min m (cellOutItems s q).length))]⟩ }

/-! ## Errors -/

/-- 60_exceptions.md R292, with the codes and flags of R291: what raising an error does, and all it does. -/
def Obligations.RaiseRecordsTheFirstError : Prop :=
  (∀ (e : ErrClass) (unit : BitVec 4) (val : Word) (s : State), Raised e unit val s (raise e unit val s)) ∧
  [ErrClass.cfgError, .illegalCommand, .underrun, .badItem, .notBuilt, .unimplemented, .badReg].map
      (fun e => (e.code.toNat, e.statusBit)) =
    [(1, 8), (2, 9), (3, 10), (4, 11), (5, 12), (6, 13), (7, 14)]

/-- 60_exceptions.md R297: a streaming command or `FM.L1B` of a unit that is not built. -/
def Obligations.UnbuiltUnitRaisesNotBuilt : Prop :=
  ∀ (i : Instr) (u : UnitId) (s : State), i.streams = some u → s.isBuilt u = false →
    ∃ t, exec i s = .next t ∧ Raised .notBuilt u.number (encode i) s t

/-- 60_exceptions.md R295: a command that takes a count, of a built unit, with too few items in an input queue. For unit 5,
whose need is the sum over the next `n` symbols, the build and the symbol index are those of the invariant. -/
def Obligations.ShortQueueRaisesUnderrun : Prop :=
  ∀ (n : Nat) (s : State),
    (s.isBuilt .bch = true → s.bch.inq.length < n * s.bch.der.kbch →
      ∃ t, exec (.bchEnc n) s = .next t ∧ Raised .underrun 1#4 (encode (.bchEnc n)) s t) ∧
    (s.isBuilt .ldpc = true → s.ldpc.inq.length < n * s.ldpc.der.nbch →
      ∃ t, exec (.ldpcEnc n) s = .next t ∧ Raised .underrun 2#4 (encode (.ldpcEnc n)) s t) ∧
    (s.isBuilt .bil = true → s.bil.inq.length < n * s.bil.der.n →
      ∃ t, exec (.bilPerm n) s = .next t ∧ Raised .underrun 3#4 (encode (.bilPerm n)) s t) ∧
    (s.isBuilt .fm = true →
      (s.fm.l1bIn.length < n * s.fm.der.l1bCells ∨ s.fm.l1dIn.length < n * s.fm.der.l1dCells ∨
        s.fm.plpIn.length < n * s.fm.der.plpCells) →
      ∃ t, exec (.fmMap n) s = .next t ∧ Raised .underrun 4#4 (encode (.fmMap n)) s t) ∧
    (BuiltValid s → symbolIndexOk s → s.isBuilt .fi = true →
      s.fi.inq.length < cellsBefore s.fi.der.geom s.fi.symidx n →
      ∃ t, exec (.fiSym n) s = .next t ∧ Raised .underrun 5#4 (encode (.fiSym n)) s t) ∧
    (s.isBuilt .tr = true → s.tr.inq.length < n * s.tr.der.n →
      ∃ t, exec (.trSym n) s = .next t ∧ Raised .underrun 6#4 (encode (.trSym n)) s t)

/-- 60_exceptions.md R296: a built bit unit with enough items, one of which, among those to be taken, is not a bit item. -/
def Obligations.BadItemIsRefused : Prop :=
  ∀ (n : Nat) (s : State),
    (s.isBuilt .bch = true → n * s.bch.der.kbch ≤ s.bch.inq.length →
      (∃ x ∈ s.bch.inq.take (n * s.bch.der.kbch), x ≠ 0x00#8 ∧ x ≠ 0x01#8) →
      ∃ t, exec (.bchEnc n) s = .next t ∧ Raised .badItem 1#4 (encode (.bchEnc n)) s t) ∧
    (s.isBuilt .ldpc = true → n * s.ldpc.der.nbch ≤ s.ldpc.inq.length →
      (∃ x ∈ s.ldpc.inq.take (n * s.ldpc.der.nbch), x ≠ 0x00#8 ∧ x ≠ 0x01#8) →
      ∃ t, exec (.ldpcEnc n) s = .next t ∧ Raised .badItem 2#4 (encode (.ldpcEnc n)) s t) ∧
    (s.isBuilt .bil = true → n * s.bil.der.n ≤ s.bil.inq.length →
      (∃ x ∈ s.bil.inq.take (n * s.bil.der.n), x ≠ 0x00#8 ∧ x ≠ 0x01#8) →
      ∃ t, exec (.bilPerm n) s = .next t ∧ Raised .badItem 3#4 (encode (.bilPerm n)) s t)

/-- 60_exceptions.md R293: a BUILD whose configuration fails a check leaves its unit not built and records `CfgError`; it
does nothing else. The checks are those of 41_bch.md R121, 42_ldpc.md R151 and R154, 43_bit_interleaver.md R171,
44_frame_mapper.md R181, 45_freq_interleaver.md R211 and 46_papr_tr.md R241. -/
def Obligations.BadConfigurationIsRefused : Prop :=
  ∀ s : State,
    (¬ BchConfigOk s.tables s.params s.bch.regs →
      ∃ t, exec .bchBuild s = .next t ∧ Raised .cfgError 1#4 0x10000000#32 (s.clearBuilt .bch) t) ∧
    ((¬ ∃ rows, LdpcConfigOk s.tables s.params s.ldpc.regs rows ∧ LdpcOrder s.tables s.params s.ldpc.regs rows) →
      ∃ t, exec .ldpcBuild s = .next t ∧ Raised .cfgError 2#4 0x20000000#32 (s.clearBuilt .ldpc) t) ∧
    ((¬ ∃ perm, BilConfigOk s.tables s.params s.bil.regs perm) →
      ∃ t, exec .bilBuild s = .next t ∧ Raised .cfgError 3#4 0x30000000#32 (s.clearBuilt .bil) t) ∧
    ((¬ ∃ k geo, GeomConfigOk s.tables s.params s.fm.regs.geom k geo ∧ FmCellsOk s.params s.fm.regs geo) →
      ∃ t, exec .fmBuild s = .next t ∧ Raised .cfgError 4#4 0x40000000#32 (s.clearBuilt .fm) t) ∧
    ((¬ ∃ k geo nr, GeomConfigOk s.tables s.params s.fi.regs.geom k geo ∧
        FiGeneratorOk s.tables s.params k.fft geo.symbols nr ∧
        ∀ l, l < geo.symbols → FiVectorsPerm geo (fiPass s.tables k.fft geo nr l)) →
      ∃ t, exec .fiBuild s = .next t ∧ Raised .cfgError 5#4 0x50000000#32 (s.clearBuilt .fi) t) ∧
    ((¬ ∃ k geo, GeomConfigOk s.tables s.params s.tr.regs.geom k geo ∧
        (paprModeOf s.params.enums s.tr.regs.paprMode = .tr → TrTonesOk s.tables s.params s.tr.regs k)) →
      ∃ t, exec .trBuild s = .next t ∧ Raised .cfgError 6#4 0x60000000#32 (s.clearBuilt .tr) t)

/-- 44_frame_mapper.md R190 and 60_exceptions.md R298: `FM.L1D` records `Unimplemented` for unit 4, built or not, and puts
nothing on any queue. This is the whole effect the spec gives it. -/
def Obligations.FmL1dAlwaysUnimplemented : Prop :=
  ∀ s : State, ∃ t, exec .fmL1d s = .next t ∧ Raised .unimplemented 4#4 0x42000000#32 s t

/-- 60_exceptions.md R301 and 20_memory.md R82: unless the host's next action is the command `SYS.RESET`, a step clears
no error flag and, once an error is recorded, leaves the record alone; no step writes the table ROM or the parameters. -/
def Obligations.OnlyResetClearsErrors : Prop :=
  ∀ s t : State, step s = .next t →
    t.tables = s.tables ∧ t.params = s.params ∧
    (s.host.script.head? ≠ some (.regWrite 0x00#8 0x01000000#32) →
      (∀ e : ErrClass, s.hasError e = true → t.hasError e = true) ∧
        (s.errCode ≠ 0#4 → t.errinfo = s.errinfo ∧ t.errval = s.errval))

/-! ## The whole machine -/

/-- The invariant holds after reset (10_state.md R65). -/
def Obligations.ResetSatisfiesInvariant : Prop := Inv State.reset

/-- Every step keeps the invariant, from every state that has it: the reserved bits of `STATUS` read as 0, the error record
agrees with the flags (10_state.md R25, R26), a built unit holds the derived state of its present configuration (R27),
symbol indices stay inside the frame (R47), and output bit queues hold bit items (20_memory.md R72). -/
def Obligations.StepKeepsInvariant : Prop := ∀ s t : State, Inv s → step s = .next t → Inv t

/-- 20_memory.md R79, the frame of a command: a command of unit `u` leaves the registers, derived state, counters and queues
of every other unit, their BUILT flags, and the host's side as they were. -/
def Obligations.CommandTouchesItsUnitOnly : Prop :=
  ∀ (i : Instr) (u : UnitId) (s t : State), i.unit = some u → exec i s = .next t →
    (u ≠ .bch → t.bch = s.bch) ∧ (u ≠ .ldpc → t.ldpc = s.ldpc) ∧ (u ≠ .bil → t.bil = s.bil) ∧
    (u ≠ .fm → t.fm = s.fm) ∧ (u ≠ .fi → t.fi = s.fi) ∧ (u ≠ .tr → t.tr = s.tr) ∧
    (∀ v, v ≠ u → t.isBuilt v = s.isBuilt v) ∧ t.tables = s.tables ∧ t.params = s.params ∧ t.host = s.host ∧
    t.bch.regs = s.bch.regs ∧ t.ldpc.regs = s.ldpc.regs ∧ t.bil.regs = s.bil.regs ∧ t.fm.regs = s.fm.regs ∧
    t.fm.l1 = s.fm.l1 ∧ t.fi.regs = s.fi.regs ∧ t.tr.regs = s.tr.regs

/-- 20_memory.md R79, what the rule marks derived (the spec's own inference): two commands of different units that record no
error leave the same state in either order. -/
def Obligations.CommandsOfDifferentUnitsCommute : Prop :=
  ∀ (i j : Instr) (u v : UnitId) (s a b : State), i.unit = some u → j.unit = some v → u ≠ v →
    exec i s = .next a → exec j s = .next b → a.errinfo = s.errinfo → b.errinfo = s.errinfo →
    ∃ t, exec j a = .next t ∧ exec i b = .next t

/-- 40_system_commands.md R110: after `SYS.RESET` every register and counter reads 0, every queue is empty, and the table
ROM and the parameters are as before (70_reset_and_hazards.md R316); the host's side is not the block's. -/
def Obligations.SysResetClearsTheBlock : Prop :=
  ∀ s : State, ∃ t, exec .sysReset s = .next t ∧
    (∀ i, regRead t i = 0#32) ∧ allQueuesEmpty t ∧ (∀ u, t.isBuilt u = false) ∧ t.noError ∧
    t.tables = s.tables ∧ t.params = s.params ∧ t.host = s.host

/-- 10_state.md R65: the state after power-on reset, and what each BUILD does from it, whatever the table ROM and the
parameters hold; for BIL.BUILD with the default assignment of the enumerants, by which the registers name SHORT, C2_15
and MOD_QPSK (70_reset_and_hazards.md R317). -/
def Obligations.PowerOnState : Prop :=
  (∀ i, regRead State.reset i = 0#32) ∧ allQueuesEmpty State.reset ∧
  ∀ (tables : Tables) (params : Params),
    let s : State := { State.reset with tables := tables, params := params }
    (∃ t, exec .bchBuild s = .next t ∧ Raised .cfgError 1#4 0x10000000#32 s t) ∧
    (∃ t, exec .ldpcBuild s = .next t ∧ Raised .cfgError 2#4 0x20000000#32 s t) ∧
    (∃ t, exec .fmBuild s = .next t ∧ Raised .cfgError 4#4 0x40000000#32 s t) ∧
    (∃ t, exec .fiBuild s = .next t ∧ Raised .cfgError 5#4 0x50000000#32 s t) ∧
    (∃ t, exec .trBuild s = .next t ∧ Raised .cfgError 6#4 0x60000000#32 s t) ∧
    (params.enums = Enums.default → ∀ perm, tables.bilPerm.lookup (.short, .c2_15, .qpsk) = some perm →
      perm.Perm (List.range tables.frameBits.short) →
      ∃ t, exec .bilBuild s = .next t ∧ t.isBuilt .bil = true ∧ t.noError)

/-- 40_system_commands.md R109: `SYS.NOP` is the word 0 and leaves the state as it is. -/
def Obligations.SysNopChangesNothing : Prop :=
  decode 0x00000000#32 = .ok .sysNop ∧ ∀ s : State, exec .sysNop s = .next s

/-! ## Unit 1, BCH -/

/-- 00_scope.md R12: the carry-less product by its coefficients, and the remainder by what makes it unique. -/
def Obligations.PolynomialArithmetic : Prop :=
  (∀ a b k : Nat, (pmul a b).testBit k =
    (List.range (k + 1)).foldl (fun acc i => acc ^^ (a.testBit i && b.testBit (k - i))) false) ∧
  ∀ a g : Nat, g ≠ 0 →
    pmod a g < 2 ^ g.log2 ∧ (∃ q, a ^^^ pmod a g = pmul q g) ∧
      ∀ t, t < 2 ^ g.log2 → (∃ q, a ^^^ t = pmul q g) → t = pmod a g

/-- 41_bch.md R120: `BCH.BUILD` of a configuration that passes the checks of R121. -/
def Obligations.BchBuildCompletes : Prop :=
  ∀ s : State, BchConfigOk s.tables s.params s.bch.regs →
    let fs := frameSizeOf s.params.enums s.bch.regs.frameSize
    ∃ d : BchDerived,
      exec .bchBuild s = .next
        { s with status := setFlag s.status 0, bch := { s.bch with der := d, blkcnt := 0#32 } } ∧
      (fs = .short → d.r = 168) ∧ (fs = .normal → d.r = 192) ∧
      bchGenerator s.tables fs = 2 ^ d.r + d.polynome.toNat ∧
      (d.lut.length = 256 ∧ ∀ b, b < 256 →
        (d.lut.getD b 0).toNat = pmod (b <<< d.r) (bchGenerator s.tables fs)) ∧
      (d.crcLut.length = 256 ∧ ∀ b, b < 256 →
        d.crcLut.getD b 0 =
          (fun t : Word => if t.getLsbD 31 then (t <<< 1) ^^^ 0x00210801#32 else t <<< 1)^[8] (BitVec.ofNat 32 b <<< 24)) ∧
      d.kbch = s.bch.regs.kbch.toNat ∧
      fecModeOf s.params.enums s.bch.regs.fecMode = some d.mode ∧
      (d.mode = .none → d.nfec = 0) ∧ (d.mode = .crc32 → d.nfec = 32) ∧ (d.mode = .bch → d.nfec = d.r)

/-- 41_bch.md R123: the division table by remainders, the same by shift-and-subtract, and its consequences. -/
def Obligations.BchTableByShifts : Prop :=
  ∀ (t : Tables) (p : Params) (u : BchRegs) (d : BchDerived), bchDerive t p u = some d →
    (∀ b, b < 256 → (d.lut.getD b 0).toNat = pmod (b <<< d.r) (bchGenerator t (frameSizeOf p.enums u.frameSize))) ∧
    (∀ b, b < 256 → d.lut.getD b 0 =
      (fun x : BitVec d.r => if x.getLsbD (d.r - 1) then (x <<< 1) ^^^ d.polynome else x <<< 1)^[8]
        (BitVec.ofNat d.r b <<< (d.r - 8))) ∧
    d.lut.getD 0 0 = 0 ∧ d.lut.getD 1 0 = d.polynome ∧
    ∀ a b, a < 256 → b < 256 → d.lut.getD (a ^^^ b) 0 = d.lut.getD a 0 ^^^ d.lut.getD b 0

/-- 41_bch.md R130: `BCH.ENC n` of a built unit with the items of `n` blocks takes them and puts each block followed by
its suffix. The working registers (10_state.md R20) end at some value. -/
def Obligations.BchEncCompletes : Prop :=
  ∀ (n : Nat) (s : State), s.isBuilt .bch = true → n * s.bch.der.kbch ≤ s.bch.inq.length →
    (∀ x ∈ s.bch.inq.take (n * s.bch.der.kbch), x = 0x00#8 ∨ x = 0x01#8) →
    ∃ reg crc, exec (.bchEnc n) s = .next
      { s with
        bch :=
          { s.bch with
            inq := s.bch.inq.drop (n * s.bch.der.kbch)
            outq := s.bch.outq ++ (List.range n).flatMap (fun k =>
              blockAt s.bch.inq s.bch.der.kbch k ++
                bchSuffix s.params s.bch.der (blockAt s.bch.inq s.bch.der.kbch k))
            blkcnt := s.bch.blkcnt + BitVec.ofNat 32 n
            reg := reg
            crc := crc } }

/-- 41_bch.md R131 to R136: what a block's suffix is in each mode: nothing; the bit-serial CRC-32 of the block (R135); the
remainder of the block times `x^r` by the generator, which makes the codeword a multiple of the generator (R134). -/
def Obligations.BchSuffixByMode : Prop :=
  ∀ (p : Params) (t : Tables) (u : BchRegs) (d : BchDerived) (blk : List Byte),
    bchDerive t p u = some d → blk.length = d.kbch →
    (bchSuffix p d blk).length = d.nfec ∧
    (fecModeOf p.enums u.fecMode = some .none → bchSuffix p d blk = []) ∧
    (fecModeOf p.enums u.fecMode = some .crc32 → bchSuffix p d blk = bitString 32 (crc32Bits p blk).toNat) ∧
    (fecModeOf p.enums u.fecMode = some .bch → bchSuffix p d blk =
      bitString d.r (pmod (packMsb blk <<< d.r) (bchGenerator t (frameSizeOf p.enums u.frameSize))) ∧
      ∃ q, packMsb (blk ++ bchSuffix p d blk) = pmul q (bchGenerator t (frameSizeOf p.enums u.frameSize)))

/-- 41_bch.md R135: the bit-serial CRC-32 in polynomial terms, for `CRC32_XOROUT` = 0. -/
def Obligations.CrcIsPolynomialRemainder : Prop :=
  ∀ (p : Params) (blk : List Byte), p.crc32Xorout = 0#32 →
    (crc32Bits p blk).toNat =
      pmod ((packMsb blk <<< 32) ^^^ (p.crc32Init.toNat <<< blk.length)) (2 ^ 32 + 0x00210801)

/-! ## Unit 2, LDPC -/

/-- 42_ldpc.md R150: `LDPC.BUILD` of a configuration that passes the checks of R151 and R154. Row `g` of the table belongs
to the codeword bits `360g .. 360g+359`; member `m` of the group contributes through the address `a` to the parity bit of
R152 for type B, and of R153, in its two regimes, for type A. The order inside a list is not
architectural (10_state.md R33). -/
def Obligations.LdpcBuildCompletes : Prop :=
  ∀ (s : State) (rows : List (List Nat)), LdpcConfigOk s.tables s.params s.ldpc.regs rows →
    LdpcOrder s.tables s.params s.ldpc.regs rows →
    let u := s.ldpc.regs
    ∃ d : LdpcDerived,
      exec .ldpcBuild s = .next
        { s with status := setFlag s.status 1, ldpc := { s.ldpc with der := d, blkcnt := 0#32 } } ∧
      d.n = s.tables.frameBits.get (frameSizeOf s.params.enums u.frameSize) ∧
      d.nbch = s.ldpc.regs.nbch.toNat ∧ d.p = d.n - d.nbch ∧ d.lut.length = d.p ∧
      (ldpcTypeOf s.params.enums u.type = .typeB → ∀ k, k < d.p →
        (d.lut.getD k []).Perm (ldpcContributions (fun a m => (a + m * u.q.toNat) % d.p) rows k)) ∧
      (ldpcTypeOf s.params.enums u.type = .typeA → ∀ k, k < d.p →
        (d.lut.getD k []).Perm
          (ldpcContributions
            (fun a m =>
              if a < u.m1.toNat then (a + m * u.q1.toNat) % u.m1.toNat
              else u.m1.toNat + ((a - u.m1.toNat) + m * u.q2.toNat) % u.m2.toNat)
            rows k))

/-- 42_ldpc.md R154: for type B the order condition holds whenever the other checks do. -/
def Obligations.LdpcTypeBAlwaysOrdered : Prop :=
  ∀ (t : Tables) (p : Params) (u : LdpcRegs) (rows : List (List Nat)), LdpcConfigOk t p u rows →
    ldpcTypeOf p.enums u.type = .typeB → LdpcOrder t p u rows

/-- 42_ldpc.md R155: `LDPC.ENC n` of a built unit with the items of `n` blocks. -/
def Obligations.LdpcEncCompletes : Prop :=
  ∀ (n : Nat) (s : State), s.isBuilt .ldpc = true → n * s.ldpc.der.nbch ≤ s.ldpc.inq.length →
    (∀ x ∈ s.ldpc.inq.take (n * s.ldpc.der.nbch), x = 0x00#8 ∨ x = 0x01#8) →
    exec (.ldpcEnc n) s = .next
      { s with
        ldpc :=
          { s.ldpc with
            inq := s.ldpc.inq.drop (n * s.ldpc.der.nbch)
            outq := s.ldpc.outq ++ (List.range n).flatMap (fun k =>
              ldpcCodeword s.ldpc.der.lut (blockAt s.ldpc.inq s.ldpc.der.nbch k))
            blkcnt := s.ldpc.blkcnt + BitVec.ofNat 32 n } }

/-- 42_ldpc.md R156, R157: the codeword of a built unit is systematic, has `FRAME_BITS` items, and every parity bit is the
exclusive or of the codeword bits its list names. -/
def Obligations.LdpcParityConsistency : Prop :=
  ∀ (t : Tables) (p : Params) (u : LdpcRegs) (d : LdpcDerived) (blk : List Byte), ldpcDerive t p u = some d →
    blk.length = d.nbch →
    (ldpcCodeword d.lut blk).length = d.n ∧ (ldpcCodeword d.lut blk).take d.nbch = blk ∧
    ∀ k, k < d.p →
      (ldpcCodeword d.lut blk)[d.nbch + k]? =
        some (bitItem ((d.lut.getD k []).foldl
          (fun acc i => acc ^^ itemBit ((ldpcCodeword d.lut blk).getD i 0x00#8)) false))

/-- 42_ldpc.md R156, what the rule marks derived (the spec's own inference): the map from a block to its codeword is linear
over GF(2). -/
def Obligations.LdpcCodewordIsLinear : Prop :=
  ∀ (lut : List (List Nat)) (a b : List Byte), a.length = b.length →
    (∀ x ∈ a, x = 0x00#8 ∨ x = 0x01#8) → (∀ x ∈ b, x = 0x00#8 ∨ x = 0x01#8) →
    ldpcCodeword lut (List.zipWith (· ^^^ ·) a b) =
      List.zipWith (· ^^^ ·) (ldpcCodeword lut a) (ldpcCodeword lut b)

/-! ## Unit 3, BIL -/

/-- 43_bit_interleaver.md R170: `BIL.BUILD` of a configuration that passes the checks of R171. -/
def Obligations.BilBuildCompletes : Prop :=
  ∀ (s : State) (perm : List Nat), BilConfigOk s.tables s.params s.bil.regs perm →
    exec .bilBuild s = .next
      { s with
        status := setFlag s.status 2
        bil :=
          { s.bil with
            der := ⟨s.tables.frameBits.get (frameSizeOf s.params.enums s.bil.regs.frameSize), perm⟩
            blkcnt := 0#32 } }

/-- 43_bit_interleaver.md R173: `BIL.PERM n` of a built unit with the items of `n` blocks: output position `i` of a block
takes the block's item at position `perm[i]`. -/
def Obligations.BilPermCompletes : Prop :=
  ∀ (n : Nat) (s : State), s.isBuilt .bil = true → n * s.bil.der.n ≤ s.bil.inq.length →
    (∀ x ∈ s.bil.inq.take (n * s.bil.der.n), x = 0x00#8 ∨ x = 0x01#8) →
    exec (.bilPerm n) s = .next
      { s with
        bil :=
          { s.bil with
            inq := s.bil.inq.drop (n * s.bil.der.n)
            outq := s.bil.outq ++ (List.range n).flatMap (fun k =>
              s.bil.der.perm.map (fun i => (blockAt s.bil.inq s.bil.der.n k).getD i 0x00#8))
            blkcnt := s.bil.blkcnt + BitVec.ofNat 32 n } }

/-- 43_bit_interleaver.md R171 (c), R173: a block leaves the unit rearranged, with as many ones as it came with, which R173
marks derived (the spec's own inference). -/
def Obligations.BilRearrangesTheBlock : Prop :=
  ∀ (t : Tables) (p : Params) (u : BilRegs) (d : BilDerived) (blk : List Byte), bilDerive t p u = some d →
    blk.length = d.n →
    (gather 0x00#8 blk d.perm).Perm blk ∧
    (gather 0x00#8 blk d.perm).count 0x01#8 = blk.count 0x01#8 ∧
    ∀ j, j < d.n → ∃ i, i < d.n ∧ d.perm.getD i 0 = j ∧ (gather 0x00#8 blk d.perm)[i]? = blk[j]?

/-! ## Unit 4, FM -/

/-- 44_frame_mapper.md R180: `FM.BUILD` of a configuration that passes the checks of R181. -/
def Obligations.FmBuildCompletes : Prop :=
  ∀ (s : State) (k : GeomKey) (geo : Geometry), GeomConfigOk s.tables s.params s.fm.regs.geom k geo →
    FmCellsOk s.params s.fm.regs geo →
    exec .fmBuild s = .next
      { s with
        status := setFlag s.status 3
        fm :=
          { s.fm with
            der :=
              ⟨geo, s.fm.regs.l1bCells.toNat, s.fm.regs.l1dCells.toNat,
                geo.totalCells - s.fm.regs.l1bCells.toNat - s.fm.regs.l1dCells.toNat⟩
            framecnt := 0#32 } }

/-- 44_frame_mapper.md R185, R187, R188: `FM.L1B` of a built unit puts 200 bits, of which the last 32 are the CRC-32 of
the first 168, and does nothing else. -/
def Obligations.FmL1bCompletes : Prop :=
  ∀ s : State, s.isBuilt .fm = true →
    exec .fmL1b s = .next
      { s with
        fm :=
          { s.fm with
            l1bOut := s.fm.l1bOut ++
              (l1bFieldBits s.params.enums s.fm.l1 ++
                bitString 32 (crc32Bits s.params (l1bFieldBits s.params.enums s.fm.l1)).toNat) } } ∧
    (l1bFieldBits s.params.enums s.fm.l1).length = 168

/-- 44_frame_mapper.md R186: every field of L1-Basic at its place, the most significant bit first, with the variant block
that `L1B_FRAME_LENGTH_MODE` selects: with the default assignment 0 the first, 1 the second. -/
def Obligations.L1bFieldsInTheirPlaces : Prop :=
  frameLengthModeOf Enums.default 0#1 = .timeAligned ∧ frameLengthModeOf Enums.default 1#1 = .symbolAligned ∧
  ∀ (e : Enums) (l : L1Basic),
    let at_ (off len : Nat) : Nat := packMsb (((l1bFieldBits e l).drop off).take len)
    (∀ x ∈ l1bFieldBits e l, isBitItem x = true) ∧
    at_ 0 3 = l.version.toNat ∧ at_ 3 1 = l.mimoPilotEncoding.toNat ∧ at_ 4 1 = l.llsFlag.toNat ∧
    at_ 5 2 = l.timeInfoFlag.toNat ∧ at_ 7 1 = l.returnChannel.toNat ∧ at_ 8 2 = l.paprReduction.toNat ∧
    at_ 10 1 = l.frameLengthMode.toNat ∧
    (frameLengthModeOf e l.frameLengthMode = .timeAligned → at_ 11 10 = l.frameLength.toNat ∧ at_ 21 13 = l.excessSamples.toNat) ∧
    (frameLengthModeOf e l.frameLengthMode = .symbolAligned → at_ 11 16 = l.timeOffset.toNat ∧ at_ 27 7 = l.additionalSamples.toNat) ∧
    at_ 34 8 = l.numSubframes.toNat ∧ at_ 42 3 = l.preambleNumSymbols.toNat ∧
    at_ 45 3 = l.preambleReducedCarriers.toNat ∧ at_ 48 2 = l.detailContentTag.toNat ∧
    at_ 50 13 = l.detailSizeBytes.toNat ∧ at_ 63 3 = l.detailFecType.toNat ∧
    at_ 66 2 = l.detailAdditionalParityMode.toNat ∧ at_ 68 19 = l.detailTotalCells.toNat ∧
    at_ 87 1 = l.firstSubMimo.toNat ∧ at_ 88 2 = l.firstSubMiso.toNat ∧ at_ 90 2 = l.firstSubFftSize.toNat ∧
    at_ 92 3 = l.firstSubReducedCarriers.toNat ∧ at_ 95 4 = l.firstSubGuardInterval.toNat ∧
    at_ 99 11 = l.firstSubNumOfdmSymbols.toNat ∧ at_ 110 5 = l.firstSubScatteredPilotPattern.toNat ∧
    at_ 115 3 = l.firstSubScatteredPilotBoost.toNat ∧ at_ 118 1 = l.firstSubSbsFirst.toNat ∧
    at_ 119 1 = l.firstSubSbsLast.toNat ∧ at_ 120 16 = l.reservedHi.toNat ∧ at_ 136 32 = l.reservedLo.toNat ∧
    (l1bFieldBits e l).length = 168

/-- 44_frame_mapper.md R195, R196: `FM.MAP n` of a built unit with the cells of `n` frames: each frame is its L1-Basic cells,
its L1-Detail cells and its payload cells, in arrival order. -/
def Obligations.FmMapCompletes : Prop :=
  ∀ (n : Nat) (s : State), s.isBuilt .fm = true → n * s.fm.der.l1bCells ≤ s.fm.l1bIn.length →
    n * s.fm.der.l1dCells ≤ s.fm.l1dIn.length → n * s.fm.der.plpCells ≤ s.fm.plpIn.length →
    exec (.fmMap n) s = .next
      { s with
        fm :=
          { s.fm with
            l1bIn := s.fm.l1bIn.drop (n * s.fm.der.l1bCells)
            l1dIn := s.fm.l1dIn.drop (n * s.fm.der.l1dCells)
            plpIn := s.fm.plpIn.drop (n * s.fm.der.plpCells)
            outq := s.fm.outq ++ (List.range n).flatMap (fun k =>
              blockAt s.fm.l1bIn s.fm.der.l1bCells k ++ blockAt s.fm.l1dIn s.fm.der.l1dCells k ++
                blockAt s.fm.plpIn s.fm.der.plpCells k)
            framecnt := s.fm.framecnt + BitVec.ofNat 32 n } }

/-- 44_frame_mapper.md R197: the cells of one frame of a built unit are `total_cells`, cut into symbols of `frame_cells[l]`
cells; the symbols begin with preamble symbols and end with an SBS symbol. -/
def Obligations.FrameKeepsItsGeometry : Prop :=
  ∀ (t : Tables) (p : Params) (u : FmRegs) (d : FmDerived) (a b c : List Cell), fmDerive t p u = some d →
    a.length = d.l1bCells → b.length = d.l1dCells → c.length = d.plpCells →
    let symbolCells (l : Nat) : List Cell :=
      ((fmPlace a b c).drop ((d.geom.frameCells.take l).sum)).take (d.geom.frameCells.getD l 0)
    d.geom.frameCells.sum = d.geom.totalCells ∧ (fmPlace a b c).length = d.geom.totalCells ∧
    (∀ l, l < d.geom.symbols → (symbolCells l).length = d.geom.frameCells.getD l 0) ∧
    (List.range d.geom.symbols).flatMap symbolCells = a ++ (b ++ c) ∧
    d.geom.symType.head? = some .preamble ∧ d.geom.symType.getLast? = some .sbs

/-! ## Unit 5, FI -/

/-- 45_freq_interleaver.md R210: `FI.BUILD` of a configuration that passes the checks of R211. The generator's working
register (10_state.md R20) ends at some value. -/
def Obligations.FiBuildCompletes : Prop :=
  ∀ (s : State) (k : GeomKey) (geo : Geometry) (nr : Nat), GeomConfigOk s.tables s.params s.fi.regs.geom k geo →
    FiGeneratorOk s.tables s.params k.fft geo.symbols nr →
    (∀ l, l < geo.symbols → FiVectorsPerm geo (fiPass s.tables k.fft geo nr l)) →
    ∃ (d : FiDerived) (lfsr : Nat),
      exec .fiBuild s = .next
        { s with
          status := setFlag s.status 4
          fi := { s.fi with der := d, symidx := 0#32, framecnt := 0#32, lfsr := lfsr } } ∧
      d.geom = geo ∧ d.fft = k.fft ∧
      d.mode = fiModeOf s.params.enums s.fi.regs.mode ∧
      d.vectors = (List.range geo.symbols).map (fiPass s.tables k.fft geo nr)

/-- 45_freq_interleaver.md R212 to R217: the pass of symbol `l`, step by step: the generator's values, the permuted and
offset addresses, and the four filters; at 8K and 16K they are the vectors, at 32K the odd-role ones are. -/
def Obligations.FiPassByItsSteps : Prop :=
  ∀ (t : Tables) (fft : Fft) (geo : Geometry) (nr l : Nat), 2 ≤ nr →
    let step : BitVec (nr - 1) → BitVec (nr - 1) := fiStepOf (fiStepFor t fft (l % 2)) (t.fiLogic.get fft)
    let off := (t.fiSymoff.get fft).getD (l / 2) 0
    let even := t.fiBitpermEven.get fft
    let odd := t.fiBitpermOdd.get fft
    off < 2 ^ nr →
    ∃ raw : Nat → BitVec (nr - 1),
      raw 0 = 0 ∧ raw 1 = 0 ∧ raw 2 = 1 ∧ (∀ i, 3 ≤ i → raw i = step (raw (i - 1))) ∧
      let addr (positions : List Nat) (i : Nat) : Nat :=
        (bitperm (raw i) positions).toNat ^^^ off ^^^ (i % 2 * 2 ^ (nr - 1))
      let he := (List.range (2 ^ nr)).map (addr even)
      let ho := (List.range (2 ^ nr)).map (addr odd)
      let v := fiPass t fft geo nr l
      v.hoddFP = ho.filter (fun h => h < geo.nFp) ∧ v.hoddP = ho.filter (fun h => h < geo.nP) ∧
      v.hoddSBS = ho.filter (fun h => h < geo.nSbs) ∧ v.hodd = ho.filter (fun h => h < geo.nData) ∧
      (fft ≠ .k32 →
        v.hevenFP = he.filter (fun h => h < geo.nFp) ∧ v.hevenP = he.filter (fun h => h < geo.nP) ∧
        v.hevenSBS = he.filter (fun h => h < geo.nSbs) ∧ v.heven = he.filter (fun h => h < geo.nData))

/-- 45_freq_interleaver.md R213: `bitperm` moves bit `n` to position `B[n]`, and is a bijection. -/
def Obligations.BitpermIsABijection : Prop :=
  ∀ (w : Nat) (positions : List Nat), positions.Perm (List.range w) →
    (∀ (x : BitVec w) (n : Nat), n < w → (bitperm x positions).getLsbD (positions.getD n 0) = x.getLsbD n) ∧
    Function.Bijective (fun x : BitVec w => bitperm x positions)

/-- 45_freq_interleaver.md R214 to R216: where the update function walks all the non-zero values in one cycle, the addresses
of a pass are all of `0 .. M-1`, each once, whatever the second generator's value. This is what R214 and R215 mark derived (the
spec's own inference). -/
def Obligations.FullCycleGivesAPermutation : Prop :=
  ∀ (w : Nat) (next : BitVec w → BitVec w) (positions : List Nat) (off : Nat), 1 ≤ w →
    positions.Perm (List.range w) → off < 2 ^ (w + 1) →
    (∀ x : BitVec w, x ≠ 0 → ∃ k, k < 2 ^ w - 1 ∧ next^[k] 1 = x) → next^[2 ^ w - 1] 1 = 1 →
    (fiAddresses w positions off (fiRaw next (2 ^ (w + 1)))).Perm (List.range (2 ^ (w + 1)))

/-- 45_freq_interleaver.md R219, with R218: in a built unit every vector of every symbol is a permutation of its regime's
range, and at 32K the even-role vector undoes the odd-role one. -/
def Obligations.BuiltTablesArePermutations : Prop :=
  ∀ s : State, BuiltValid s → s.isBuilt .fi = true →
    s.fi.der.vectors.length = s.fi.der.geom.symbols ∧
    ∀ v ∈ s.fi.der.vectors, FiVectorsPerm s.fi.der.geom v ∧
      (s.fi.der.fft = .k32 →
        ∀ e ∈ [(v.hevenFP, v.hoddFP), (v.hevenP, v.hoddP), (v.hevenSBS, v.hoddSBS), (v.heven, v.hodd)],
          ∀ n, n < e.2.length → e.1[e.2.getD n 0]? = some n)

/-- 45_freq_interleaver.md R220: `FI.SYM n` of a built unit with the cells of the next `n` symbols: each symbol in turn,
the symbol index going back to 0 after the last and the frame counter then advancing. -/
def Obligations.FiSymCompletes : Prop :=
  ∀ (n : Nat) (s : State), BuiltValid s → symbolIndexOk s → s.isBuilt .fi = true →
    cellsBefore s.fi.der.geom s.fi.symidx n ≤ s.fi.inq.length →
    exec (.fiSym n) s = .next
      { s with
        fi :=
          { s.fi with
            inq := s.fi.inq.drop (cellsBefore s.fi.der.geom s.fi.symidx n)
            outq := s.fi.outq ++ (List.range n).flatMap (fun k =>
              fiSymbol s.fi.der (symbolAt s.fi.der.geom s.fi.symidx k) (fiBlock s.fi k))
            symidx := BitVec.ofNat 32 (symbolAt s.fi.der.geom s.fi.symidx n)
            framecnt := s.fi.framecnt + BitVec.ofNat 32 ((s.fi.symidx.toNat + n) / s.fi.der.geom.symbols) } }

/-- 45_freq_interleaver.md R221 to R223: which table a symbol of a built unit goes through, that output position `i` takes
the cell at `H[i]`, and that the symbol is rearranged and no cell changed. -/
def Obligations.FiSymbolThroughItsTable : Prop :=
  ∀ (s : State) (l : Nat) (x : List Cell) (v : FiVectors), BuiltValid s → s.isBuilt .fi = true →
    s.fi.der.vectors[l]? = some v → x.length = s.fi.der.geom.frameCells.getD l 0 →
    let ty := s.fi.der.geom.symType.getD l .data
    let through (table : List Nat) : List Cell := table.map (fun i => x.getD i noCell)
    let out := fiSymbol s.fi.der l x
    (s.fi.der.mode = .preambleOnly → ty ≠ .preamble → out = x) ∧
    (l = 0 → out = through v.hevenFP) ∧
    (0 < l → ty = .preamble → out = through (if l % 2 = 0 then v.hevenP else v.hoddP)) ∧
    (s.fi.der.mode = .allSymbols → ty = .sbs → out = through (if l % 2 = 0 then v.hevenSBS else v.hoddSBS)) ∧
    (s.fi.der.mode = .allSymbols → ty = .data → out = through (if l % 2 = 0 then v.heven else v.hodd)) ∧
    out.Perm x

/-! ## Unit 6, TR -/

/-- 46_papr_tr.md R240: `TR.BUILD` of a configuration that passes the checks of R241; those on the tones, the pilot pattern
and the clip target are made in mode `PAPR_TR` alone. -/
def Obligations.TrBuildCompletes : Prop :=
  ∀ (s : State) (k : GeomKey) (geo : Geometry), GeomConfigOk s.tables s.params s.tr.regs.geom k geo →
    (paprModeOf s.params.enums s.tr.regs.paprMode = .tr → TrTonesOk s.tables s.params s.tr.regs k) →
    ∃ d : TrDerived,
      exec .trBuild s = .next
        { s with
          status := setFlag s.status 5
          tr := { s.tr with der := d, symidx := 0#32, framecnt := 0#32 } } ∧
      d.geom = geo ∧ d.fft = k.fft ∧ d.n = s.params.fiMaxStates.get k.fft ∧
      d.tones = s.tables.trTones.get k.fft ∧ d.nTr = d.tones.length ∧
      d.dx = s.tables.pilotDx.lookup k.pilotPattern ∧ d.dy = s.tables.pilotDy.lookup k.pilotPattern ∧
      d.numIter = s.tr.regs.numIter.toNat ∧ d.offset = s.tr.regs.shiftOffset.toNat ∧
      d.vClip = sampleUnits s.tr.regs.vclip ∧
      d.mode = paprModeOf s.params.enums s.tr.regs.paprMode

/-- 46_papr_tr.md R245, R242: `TR.SYM n` of a built unit with the samples of `n` symbols: a symbol that is reduced leaves as
its reduction, every other one as it came. The scratch ends at some value. -/
def Obligations.TrSymCompletes : Prop :=
  ∀ (n : Nat) (s : State), BuiltValid s → symbolIndexOk s → s.isBuilt .tr = true →
    n * s.tr.der.n ≤ s.tr.inq.length →
    ∃ scratch, exec (.trSym n) s = .next
      { s with
        tr :=
          { s.tr with
            inq := s.tr.inq.drop (n * s.tr.der.n)
            outq := s.tr.outq ++ (List.range n).flatMap (fun k =>
              if trReduces s.tr k then
                (trReduce (s.tr.freeUses + ((List.range k).filter (trReduces s.tr)).length) s.params s.tr.der
                  (symbolAt s.tr.der.geom s.tr.symidx k) (blockAt s.tr.inq s.tr.der.n k)).1
              else blockAt s.tr.inq s.tr.der.n k)
            symidx := BitVec.ofNat 32 (symbolAt s.tr.der.geom s.tr.symidx n)
            framecnt := s.tr.framecnt + BitVec.ofNat 32 ((s.tr.symidx.toNat + n) / s.tr.der.geom.symbols)
            scratch := scratch
            freeUses := s.tr.freeUses + ((List.range n).filter (trReduces s.tr)).length } }

/-- 46_papr_tr.md R242, R243: in the modes other than `PAPR_TR`, `TR.SYM n` of a built unit passes every item through, and
the symbol counter advances. -/
def Obligations.TrOtherModesPassThrough : Prop :=
  ∀ (n : Nat) (s : State), BuiltValid s → symbolIndexOk s → s.isBuilt .tr = true → s.tr.der.mode ≠ .tr →
    n * s.tr.der.n ≤ s.tr.inq.length →
    exec (.trSym n) s = .next
      { s with
        tr :=
          { s.tr with
            inq := s.tr.inq.drop (n * s.tr.der.n)
            outq := s.tr.outq ++ s.tr.inq.take (n * s.tr.der.n)
            symidx := BitVec.ofNat 32 ((s.tr.symidx.toNat + n) % s.tr.der.geom.symbols)
            framecnt := s.tr.framecnt + BitVec.ofNat 32 ((s.tr.symidx.toNat + n) / s.tr.der.geom.symbols) } }

/-- 46_papr_tr.md R244, R245, R252, R253: the reduction of a symbol of finite cells in mode `PAPR_TR`. Where no iteration is
allowed or the first exit test of the reference holds, the reference's output is the input and the symbol leaves as it
came (log entry 12, the model's reading); otherwise each component that leaves is the free sample (log entry 10) for the exact number of the
reference. -/
def Obligations.TrReductionFollowsTheReference : Prop :=
  ∀ (use : Nat) (t : Tables) (p : Params) (u : TrRegs) (d : TrDerived) (l : Nat) (x : List Cell),
    trDerive t p u = some d → paprModeOf p.enums u.paprMode = .tr → x.length = d.n → (∀ c ∈ x, (cellUnits c).isSome = true) →
    let q := trProblemOf p d l x
    ((d.numIter = 0 ∨ trExits q (trMeasure q trStart)) →
      (trReduce use p d l x).1 = x ∧ ∀ i, i < d.n → trOutput q i = q.x i) ∧
    (d.numIter ≠ 0 → ¬ trExits q (trMeasure q trStart) →
      (trReduce use p d l x).1.length = d.n ∧
      ∀ i, i < d.n → ∀ c, (trReduce use p d l x).1[i]? = some c →
        c.re = sampleOf use ⟨.y, i, false⟩ (fun y => y = (trOutput q i).re) ∧
        c.im = sampleOf use ⟨.y, i, true⟩ (fun y => y = (trOutput q i).im))

/-- 46_papr_tr.md R246: the shifted tones of a symbol: in range, and not shifted on a symbol that is no data symbol. That they
stay distinct and as many as the table's is what the rule marks derived (the spec's own inference). -/
def Obligations.ToneSetIsACyclicShift : Prop :=
  ∀ (n dx dy offset l : Nat) (tones : List Nat) (ty : SymType), tones.Nodup → (∀ k ∈ tones, k < n) → 1 ≤ dy →
    (∀ k ∈ trToneSet n tones dx dy offset ty l, k < n) ∧ (trToneSet n tones dx dy offset ty l).Nodup ∧
    (trToneSet n tones dx dy offset ty l).length = tones.length ∧
    (ty ≠ .data → trToneSet n tones dx dy offset ty l = tones) ∧
    (ty = .data → ∃ j, j < dy ∧ ((l : Int) - (offset : Int)) ≡ (j : Int) [ZMOD (dy : Int)] ∧
      trToneSet n tones dx dy offset ty l = tones.map (fun k => (k + dx * j) % n))

/-- 46_papr_tr.md R247: the kernel at `m` is the mean, over the tones `k`, of the phases `exp(+j*2*pi*k*m/n)`, each of
magnitude 1; so (the spec's own inference) it is 1 at 0 and at most 1 in magnitude everywhere. -/
def Obligations.KernelIsAMeanOfUnitVectors : Prop :=
  ∀ (n : Nat) (tones : List Nat), tones ≠ [] →
    (∀ m : Nat, trKernel n tones m =
      (1 / (tones.length : ℂ)) *
        (tones.map (fun k : Nat => Complex.exp (2 * Real.pi * Complex.I * ((k : ℂ) * (m : ℂ)) / (n : ℂ)))).sum) ∧
    (∀ k m : Nat, ‖Complex.exp (2 * Real.pi * Complex.I * ((k : ℂ) * (m : ℂ)) / (n : ℂ))‖ = 1) ∧
    trKernel n tones 0 = 1 ∧ ∀ m, ‖trKernel n tones m‖ ≤ 1

/-- 46_papr_tr.md R248: at the end of the loop, from any problem, the correction is the signal whose tones have the
amplitudes `r`. -/
def Obligations.CorrectionHoldsOnlyReservedTones : Prop :=
  ∀ (q : TrProblem) (i : Nat), 0 < q.n →
    (trRun q).c i =
      (1 / (q.tones.length : ℂ)) *
        ((List.range q.tones.length).map (fun a =>
          (trRun q).r a * trPhase q.n ((q.tones.getD a 0 : Int) * (i : Int)))).sum

/-- 46_papr_tr.md R251, R254 (second half): the final magnitude of no reserved tone exceeds `aMax`, with either exit
test. -/
def Obligations.ToneMagnitudeWithinAMax : Prop :=
  ∀ (q : TrProblem) (a : Nat), 0 < q.vClip → a < q.tones.length →
    ‖(trRun q).r a‖ ≤ trAMax q.tones.length q.carriers

/-- 46_papr_tr.md R249, R251: one correction: with the tones within `aMax` before, the step is not negative and at most
`peak - v_clip`, the sample at the peak drops by exactly the step, and every tone stays within `aMax`. -/
def Obligations.PeakSampleDropsByTheStep : Prop :=
  ∀ (q : TrProblem) (s : TrLoop), 0 < q.vClip → 0 < q.n → q.tones ≠ [] →
    (∀ a, a < q.tones.length → ‖s.r a‖ ≤ trAMax q.tones.length q.carriers) →
    ¬ trExits q (trMeasure q s) →
    let s1 := trMeasure q s
    let m := trPeak q s1
    let s2 := trCorrect q s1
    m < q.n ∧ (∀ i, i < q.n → ‖q.x i + s.c i‖ ≤ s1.magnitude m) ∧ (∀ i, i < m → ‖q.x i + s.c i‖ < s1.magnitude m) ∧
    0 ≤ trAlpha q s1 ∧ trAlpha q s1 ≤ s1.magnitude m - q.vClip ∧
    ‖q.x m + s2.c m‖ = s1.magnitude m - trAlpha q s1 ∧
    ∀ a, a < q.tones.length → ‖s2.r a‖ ≤ trAMax q.tones.length q.carriers

/-! ## The enumerants -/

/-- 00_scope.md R16: the member that each value of each field names with the default of the parameter `Enums`, and the values
that name none; and that every other assignment is read the same way, by the field's value. -/
def Obligations.EnumerantValues : Prop :=
  ((List.range 2).map (fun v => frameSizeOf Enums.default (BitVec.ofNat 1 v)) = [.short, .normal] ∧
    (List.range 16).map (fun v => codeRateOf Enums.default (BitVec.ofNat 4 v)) =
      [some .c2_15, some .c3_15, some .c4_15, some .c5_15, some .c6_15, some .c7_15, some .c8_15, some .c9_15,
        some .c10_15, some .c11_15, some .c12_15, some .c13_15, none, none, none, none] ∧
    (List.range 2).map (fun v => ldpcTypeOf Enums.default (BitVec.ofNat 1 v)) = [.typeA, .typeB] ∧
    (List.range 4).map (fun v => fecModeOf Enums.default (BitVec.ofNat 2 v)) =
      [some .none, some .crc32, some .bch, none] ∧
    (List.range 4).map (fun v => fftOf Enums.default (BitVec.ofNat 2 v)) = [some .k8, some .k16, some .k32, none] ∧
    (∀ b : BitVec 4,
      (guardIntervalOf Enums.default b).map Fin.val = if b.toNat ≤ 11 then some b.toNat else none) ∧
    (∀ b : BitVec 5,
      (pilotPatternOf Enums.default b).map Fin.val = if b.toNat ≤ 15 then some b.toNat else none) ∧
    (List.range 8).map (fun v => modulationOf Enums.default (BitVec.ofNat 3 v)) =
      [some .qpsk, some .qam16, some .qam64, some .qam256, some .qam1024, some .qam4096, none, none] ∧
    (List.range 4).map (fun v => paprModeOf Enums.default (BitVec.ofNat 2 v)) = [.off, .tr, .ace, .both] ∧
    (List.range 2).map (fun v => fiModeOf Enums.default (BitVec.ofNat 1 v)) = [.preambleOnly, .allSymbols] ∧
    (List.range 2).map (fun v => frameLengthModeOf Enums.default (BitVec.ofNat 1 v)) = [.timeAligned, .symbolAligned] ∧
    Enums.default.symType.toList = [.preamble, .sbs, .data] ∧
    (List.range 4).map (fun v => tiModeOf Enums.default (BitVec.ofNat 2 v)) = [some .off, none, none, none]) ∧
  ∀ e : Enums,
    (∀ b, e.frameSize[b.toNat]? = some (frameSizeOf e b)) ∧ (∀ b, e.codeRate[b.toNat]? = some (codeRateOf e b)) ∧
    (∀ b, e.ldpcType[b.toNat]? = some (ldpcTypeOf e b)) ∧ (∀ b, e.fecMode[b.toNat]? = some (fecModeOf e b)) ∧
    (∀ b, e.fft[b.toNat]? = some (fftOf e b)) ∧ (∀ b, e.guardInterval[b.toNat]? = some (guardIntervalOf e b)) ∧
    (∀ b, e.pilotPattern[b.toNat]? = some (pilotPatternOf e b)) ∧
    (∀ b, e.modulation[b.toNat]? = some (modulationOf e b)) ∧ (∀ b, e.paprMode[b.toNat]? = some (paprModeOf e b)) ∧
    (∀ b, e.fiMode[b.toNat]? = some (fiModeOf e b)) ∧
    (∀ b, e.frameLengthMode[b.toNat]? = some (frameLengthModeOf e b)) ∧
    (∀ b, e.tiMode[b.toNat]? = some (tiModeOf e b))

end
end

