-- ==== Sys2Proof/Laws/State.lean ====
section
/-! SUPPORT. One lemma per field per named update of the state, so that no proof unfolds a record update. -/

namespace Sys2Proof.Machine

open Sys2Proof.Config

/-! ## Flags -/

@[simp] theorem setBuilt_tables (s : State) (u : UnitId) : (s.setBuilt u).tables = s.tables := rfl
@[simp] theorem setBuilt_params (s : State) (u : UnitId) : (s.setBuilt u).params = s.params := rfl
@[simp] theorem setBuilt_status (s : State) (u : UnitId) :
    (s.setBuilt u).status = setFlag s.status u.builtBit := rfl
@[simp] theorem setBuilt_errinfo (s : State) (u : UnitId) : (s.setBuilt u).errinfo = s.errinfo := rfl
@[simp] theorem setBuilt_errval (s : State) (u : UnitId) : (s.setBuilt u).errval = s.errval := rfl
@[simp] theorem setBuilt_bch (s : State) (u : UnitId) : (s.setBuilt u).bch = s.bch := rfl
@[simp] theorem setBuilt_ldpc (s : State) (u : UnitId) : (s.setBuilt u).ldpc = s.ldpc := rfl
@[simp] theorem setBuilt_bil (s : State) (u : UnitId) : (s.setBuilt u).bil = s.bil := rfl
@[simp] theorem setBuilt_fm (s : State) (u : UnitId) : (s.setBuilt u).fm = s.fm := rfl
@[simp] theorem setBuilt_fi (s : State) (u : UnitId) : (s.setBuilt u).fi = s.fi := rfl
@[simp] theorem setBuilt_tr (s : State) (u : UnitId) : (s.setBuilt u).tr = s.tr := rfl
@[simp] theorem setBuilt_host (s : State) (u : UnitId) : (s.setBuilt u).host = s.host := rfl

@[simp] theorem clearBuilt_tables (s : State) (u : UnitId) : (s.clearBuilt u).tables = s.tables := rfl
@[simp] theorem clearBuilt_params (s : State) (u : UnitId) : (s.clearBuilt u).params = s.params := rfl
@[simp] theorem clearBuilt_status (s : State) (u : UnitId) :
    (s.clearBuilt u).status = clearFlag s.status u.builtBit := rfl
@[simp] theorem clearBuilt_errinfo (s : State) (u : UnitId) : (s.clearBuilt u).errinfo = s.errinfo := rfl
@[simp] theorem clearBuilt_errval (s : State) (u : UnitId) : (s.clearBuilt u).errval = s.errval := rfl
@[simp] theorem clearBuilt_bch (s : State) (u : UnitId) : (s.clearBuilt u).bch = s.bch := rfl
@[simp] theorem clearBuilt_ldpc (s : State) (u : UnitId) : (s.clearBuilt u).ldpc = s.ldpc := rfl
@[simp] theorem clearBuilt_bil (s : State) (u : UnitId) : (s.clearBuilt u).bil = s.bil := rfl
@[simp] theorem clearBuilt_fm (s : State) (u : UnitId) : (s.clearBuilt u).fm = s.fm := rfl
@[simp] theorem clearBuilt_fi (s : State) (u : UnitId) : (s.clearBuilt u).fi = s.fi := rfl
@[simp] theorem clearBuilt_tr (s : State) (u : UnitId) : (s.clearBuilt u).tr = s.tr := rfl
@[simp] theorem clearBuilt_host (s : State) (u : UnitId) : (s.clearBuilt u).host = s.host := rfl

/-! ## The host's side -/

@[simp] theorem withScript_tables (s : State) (l : List HostAction) : (s.withScript l).tables = s.tables := rfl
@[simp] theorem withScript_params (s : State) (l : List HostAction) : (s.withScript l).params = s.params := rfl
@[simp] theorem withScript_status (s : State) (l : List HostAction) : (s.withScript l).status = s.status := rfl
@[simp] theorem withScript_errinfo (s : State) (l : List HostAction) : (s.withScript l).errinfo = s.errinfo := rfl
@[simp] theorem withScript_errval (s : State) (l : List HostAction) : (s.withScript l).errval = s.errval := rfl
@[simp] theorem withScript_bch (s : State) (l : List HostAction) : (s.withScript l).bch = s.bch := rfl
@[simp] theorem withScript_ldpc (s : State) (l : List HostAction) : (s.withScript l).ldpc = s.ldpc := rfl
@[simp] theorem withScript_bil (s : State) (l : List HostAction) : (s.withScript l).bil = s.bil := rfl
@[simp] theorem withScript_fm (s : State) (l : List HostAction) : (s.withScript l).fm = s.fm := rfl
@[simp] theorem withScript_fi (s : State) (l : List HostAction) : (s.withScript l).fi = s.fi := rfl
@[simp] theorem withScript_tr (s : State) (l : List HostAction) : (s.withScript l).tr = s.tr := rfl
@[simp] theorem withScript_host (s : State) (l : List HostAction) :
    (s.withScript l).host = { s.host with script := l } := rfl

@[simp] theorem answer_tables (r : HostResult) (s : State) : (answer r s).tables = s.tables := rfl
@[simp] theorem answer_params (r : HostResult) (s : State) : (answer r s).params = s.params := rfl
@[simp] theorem answer_status (r : HostResult) (s : State) : (answer r s).status = s.status := rfl
@[simp] theorem answer_errinfo (r : HostResult) (s : State) : (answer r s).errinfo = s.errinfo := rfl
@[simp] theorem answer_errval (r : HostResult) (s : State) : (answer r s).errval = s.errval := rfl
@[simp] theorem answer_bch (r : HostResult) (s : State) : (answer r s).bch = s.bch := rfl
@[simp] theorem answer_ldpc (r : HostResult) (s : State) : (answer r s).ldpc = s.ldpc := rfl
@[simp] theorem answer_bil (r : HostResult) (s : State) : (answer r s).bil = s.bil := rfl
@[simp] theorem answer_fm (r : HostResult) (s : State) : (answer r s).fm = s.fm := rfl
@[simp] theorem answer_fi (r : HostResult) (s : State) : (answer r s).fi = s.fi := rfl
@[simp] theorem answer_tr (r : HostResult) (s : State) : (answer r s).tr = s.tr := rfl
@[simp] theorem answer_host (r : HostResult) (s : State) :
    (answer r s).host = { s.host with results := s.host.results ++ [r] } := rfl

/-! ## Installing derived state -/

@[simp] theorem bchInstall_tables (d : BchDerived) (s : State) : (bchInstall d s).tables = s.tables := rfl
@[simp] theorem bchInstall_params (d : BchDerived) (s : State) : (bchInstall d s).params = s.params := rfl
@[simp] theorem bchInstall_status (d : BchDerived) (s : State) : (bchInstall d s).status = s.status := rfl
@[simp] theorem bchInstall_errinfo (d : BchDerived) (s : State) : (bchInstall d s).errinfo = s.errinfo := rfl
@[simp] theorem bchInstall_errval (d : BchDerived) (s : State) : (bchInstall d s).errval = s.errval := rfl
@[simp] theorem bchInstall_bch (d : BchDerived) (s : State) :
    (bchInstall d s).bch = { s.bch with der := d, blkcnt := 0#32 } := rfl
@[simp] theorem bchInstall_ldpc (d : BchDerived) (s : State) : (bchInstall d s).ldpc = s.ldpc := rfl
@[simp] theorem bchInstall_bil (d : BchDerived) (s : State) : (bchInstall d s).bil = s.bil := rfl
@[simp] theorem bchInstall_fm (d : BchDerived) (s : State) : (bchInstall d s).fm = s.fm := rfl
@[simp] theorem bchInstall_fi (d : BchDerived) (s : State) : (bchInstall d s).fi = s.fi := rfl
@[simp] theorem bchInstall_tr (d : BchDerived) (s : State) : (bchInstall d s).tr = s.tr := rfl
@[simp] theorem bchInstall_host (d : BchDerived) (s : State) : (bchInstall d s).host = s.host := rfl

@[simp] theorem ldpcInstall_tables (d : LdpcDerived) (s : State) : (ldpcInstall d s).tables = s.tables := rfl
@[simp] theorem ldpcInstall_params (d : LdpcDerived) (s : State) : (ldpcInstall d s).params = s.params := rfl
@[simp] theorem ldpcInstall_status (d : LdpcDerived) (s : State) : (ldpcInstall d s).status = s.status := rfl
@[simp] theorem ldpcInstall_errinfo (d : LdpcDerived) (s : State) : (ldpcInstall d s).errinfo = s.errinfo := rfl
@[simp] theorem ldpcInstall_errval (d : LdpcDerived) (s : State) : (ldpcInstall d s).errval = s.errval := rfl
@[simp] theorem ldpcInstall_bch (d : LdpcDerived) (s : State) : (ldpcInstall d s).bch = s.bch := rfl
@[simp] theorem ldpcInstall_ldpc (d : LdpcDerived) (s : State) :
    (ldpcInstall d s).ldpc = { s.ldpc with der := d, blkcnt := 0#32 } := rfl
@[simp] theorem ldpcInstall_bil (d : LdpcDerived) (s : State) : (ldpcInstall d s).bil = s.bil := rfl
@[simp] theorem ldpcInstall_fm (d : LdpcDerived) (s : State) : (ldpcInstall d s).fm = s.fm := rfl
@[simp] theorem ldpcInstall_fi (d : LdpcDerived) (s : State) : (ldpcInstall d s).fi = s.fi := rfl
@[simp] theorem ldpcInstall_tr (d : LdpcDerived) (s : State) : (ldpcInstall d s).tr = s.tr := rfl
@[simp] theorem ldpcInstall_host (d : LdpcDerived) (s : State) : (ldpcInstall d s).host = s.host := rfl

@[simp] theorem bilInstall_tables (d : BilDerived) (s : State) : (bilInstall d s).tables = s.tables := rfl
@[simp] theorem bilInstall_params (d : BilDerived) (s : State) : (bilInstall d s).params = s.params := rfl
@[simp] theorem bilInstall_status (d : BilDerived) (s : State) : (bilInstall d s).status = s.status := rfl
@[simp] theorem bilInstall_errinfo (d : BilDerived) (s : State) : (bilInstall d s).errinfo = s.errinfo := rfl
@[simp] theorem bilInstall_errval (d : BilDerived) (s : State) : (bilInstall d s).errval = s.errval := rfl
@[simp] theorem bilInstall_bch (d : BilDerived) (s : State) : (bilInstall d s).bch = s.bch := rfl
@[simp] theorem bilInstall_ldpc (d : BilDerived) (s : State) : (bilInstall d s).ldpc = s.ldpc := rfl
@[simp] theorem bilInstall_bil (d : BilDerived) (s : State) :
    (bilInstall d s).bil = { s.bil with der := d, blkcnt := 0#32 } := rfl
@[simp] theorem bilInstall_fm (d : BilDerived) (s : State) : (bilInstall d s).fm = s.fm := rfl
@[simp] theorem bilInstall_fi (d : BilDerived) (s : State) : (bilInstall d s).fi = s.fi := rfl
@[simp] theorem bilInstall_tr (d : BilDerived) (s : State) : (bilInstall d s).tr = s.tr := rfl
@[simp] theorem bilInstall_host (d : BilDerived) (s : State) : (bilInstall d s).host = s.host := rfl

@[simp] theorem fmInstall_tables (d : FmDerived) (s : State) : (fmInstall d s).tables = s.tables := rfl
@[simp] theorem fmInstall_params (d : FmDerived) (s : State) : (fmInstall d s).params = s.params := rfl
@[simp] theorem fmInstall_status (d : FmDerived) (s : State) : (fmInstall d s).status = s.status := rfl
@[simp] theorem fmInstall_errinfo (d : FmDerived) (s : State) : (fmInstall d s).errinfo = s.errinfo := rfl
@[simp] theorem fmInstall_errval (d : FmDerived) (s : State) : (fmInstall d s).errval = s.errval := rfl
@[simp] theorem fmInstall_bch (d : FmDerived) (s : State) : (fmInstall d s).bch = s.bch := rfl
@[simp] theorem fmInstall_ldpc (d : FmDerived) (s : State) : (fmInstall d s).ldpc = s.ldpc := rfl
@[simp] theorem fmInstall_bil (d : FmDerived) (s : State) : (fmInstall d s).bil = s.bil := rfl
@[simp] theorem fmInstall_fm (d : FmDerived) (s : State) :
    (fmInstall d s).fm = { s.fm with der := d, framecnt := 0#32 } := rfl
@[simp] theorem fmInstall_fi (d : FmDerived) (s : State) : (fmInstall d s).fi = s.fi := rfl
@[simp] theorem fmInstall_tr (d : FmDerived) (s : State) : (fmInstall d s).tr = s.tr := rfl
@[simp] theorem fmInstall_host (d : FmDerived) (s : State) : (fmInstall d s).host = s.host := rfl

@[simp] theorem fiInstall_tables (d : FiDerived) (s : State) : (fiInstall d s).tables = s.tables := rfl
@[simp] theorem fiInstall_params (d : FiDerived) (s : State) : (fiInstall d s).params = s.params := rfl
@[simp] theorem fiInstall_status (d : FiDerived) (s : State) : (fiInstall d s).status = s.status := rfl
@[simp] theorem fiInstall_errinfo (d : FiDerived) (s : State) : (fiInstall d s).errinfo = s.errinfo := rfl
@[simp] theorem fiInstall_errval (d : FiDerived) (s : State) : (fiInstall d s).errval = s.errval := rfl
@[simp] theorem fiInstall_bch (d : FiDerived) (s : State) : (fiInstall d s).bch = s.bch := rfl
@[simp] theorem fiInstall_ldpc (d : FiDerived) (s : State) : (fiInstall d s).ldpc = s.ldpc := rfl
@[simp] theorem fiInstall_bil (d : FiDerived) (s : State) : (fiInstall d s).bil = s.bil := rfl
@[simp] theorem fiInstall_fm (d : FiDerived) (s : State) : (fiInstall d s).fm = s.fm := rfl
@[simp] theorem fiInstall_fi (d : FiDerived) (s : State) :
    (fiInstall d s).fi = { s.fi with der := d, symidx := 0#32, framecnt := 0#32, lfsr := fiLastRaw s.tables s.params d } := rfl
@[simp] theorem fiInstall_tr (d : FiDerived) (s : State) : (fiInstall d s).tr = s.tr := rfl
@[simp] theorem fiInstall_host (d : FiDerived) (s : State) : (fiInstall d s).host = s.host := rfl

@[simp] theorem trInstall_tables (d : TrDerived) (s : State) : (trInstall d s).tables = s.tables := rfl
@[simp] theorem trInstall_params (d : TrDerived) (s : State) : (trInstall d s).params = s.params := rfl
@[simp] theorem trInstall_status (d : TrDerived) (s : State) : (trInstall d s).status = s.status := rfl
@[simp] theorem trInstall_errinfo (d : TrDerived) (s : State) : (trInstall d s).errinfo = s.errinfo := rfl
@[simp] theorem trInstall_errval (d : TrDerived) (s : State) : (trInstall d s).errval = s.errval := rfl
@[simp] theorem trInstall_bch (d : TrDerived) (s : State) : (trInstall d s).bch = s.bch := rfl
@[simp] theorem trInstall_ldpc (d : TrDerived) (s : State) : (trInstall d s).ldpc = s.ldpc := rfl
@[simp] theorem trInstall_bil (d : TrDerived) (s : State) : (trInstall d s).bil = s.bil := rfl
@[simp] theorem trInstall_fm (d : TrDerived) (s : State) : (trInstall d s).fm = s.fm := rfl
@[simp] theorem trInstall_fi (d : TrDerived) (s : State) : (trInstall d s).fi = s.fi := rfl
@[simp] theorem trInstall_tr (d : TrDerived) (s : State) :
    (trInstall d s).tr = { s.tr with der := d, symidx := 0#32, framecnt := 0#32 } := rfl
@[simp] theorem trInstall_host (d : TrDerived) (s : State) : (trInstall d s).host = s.host := rfl

/-! ## Reset -/

@[simp] theorem resetBlock_tables (s : State) : (resetBlock s).tables = s.tables := rfl
@[simp] theorem resetBlock_params (s : State) : (resetBlock s).params = s.params := rfl
@[simp] theorem resetBlock_status (s : State) :
    (resetBlock s).status = 0#32 := rfl
@[simp] theorem resetBlock_errinfo (s : State) :
    (resetBlock s).errinfo = 0#32 := rfl
@[simp] theorem resetBlock_errval (s : State) :
    (resetBlock s).errval = 0#32 := rfl
@[simp] theorem resetBlock_bch (s : State) :
    (resetBlock s).bch = resetBch := rfl
@[simp] theorem resetBlock_ldpc (s : State) :
    (resetBlock s).ldpc = resetLdpc := rfl
@[simp] theorem resetBlock_bil (s : State) :
    (resetBlock s).bil = resetBil := rfl
@[simp] theorem resetBlock_fm (s : State) :
    (resetBlock s).fm = resetFm := rfl
@[simp] theorem resetBlock_fi (s : State) :
    (resetBlock s).fi = resetFi := rfl
@[simp] theorem resetBlock_tr (s : State) :
    (resetBlock s).tr = { resetTr with freeUses := s.tr.freeUses } := rfl
@[simp] theorem resetBlock_host (s : State) : (resetBlock s).host = s.host := rfl

/-! ## Raising an error -/

@[simp] theorem raise_tables (e : ErrClass) (unit : BitVec 4) (val : Word) (s : State) :
    (raise e unit val s).tables = s.tables := by
  unfold raise; split <;> rfl
@[simp] theorem raise_params (e : ErrClass) (unit : BitVec 4) (val : Word) (s : State) :
    (raise e unit val s).params = s.params := by
  unfold raise; split <;> rfl
@[simp] theorem raise_status (e : ErrClass) (unit : BitVec 4) (val : Word) (s : State) :
    (raise e unit val s).status = setFlag s.status e.statusBit := by
  unfold raise; split <;> rfl
@[simp] theorem raise_bch (e : ErrClass) (unit : BitVec 4) (val : Word) (s : State) :
    (raise e unit val s).bch = s.bch := by
  unfold raise; split <;> rfl
@[simp] theorem raise_ldpc (e : ErrClass) (unit : BitVec 4) (val : Word) (s : State) :
    (raise e unit val s).ldpc = s.ldpc := by
  unfold raise; split <;> rfl
@[simp] theorem raise_bil (e : ErrClass) (unit : BitVec 4) (val : Word) (s : State) :
    (raise e unit val s).bil = s.bil := by
  unfold raise; split <;> rfl
@[simp] theorem raise_fm (e : ErrClass) (unit : BitVec 4) (val : Word) (s : State) :
    (raise e unit val s).fm = s.fm := by
  unfold raise; split <;> rfl
@[simp] theorem raise_fi (e : ErrClass) (unit : BitVec 4) (val : Word) (s : State) :
    (raise e unit val s).fi = s.fi := by
  unfold raise; split <;> rfl
@[simp] theorem raise_tr (e : ErrClass) (unit : BitVec 4) (val : Word) (s : State) :
    (raise e unit val s).tr = s.tr := by
  unfold raise; split <;> rfl
@[simp] theorem raise_host (e : ErrClass) (unit : BitVec 4) (val : Word) (s : State) :
    (raise e unit val s).host = s.host := by
  unfold raise; split <;> rfl

/-! ## Register writes -/

@[simp] theorem withGeomRegs_tables (s : State) (g : GeomRegs) (u : GeomUnit) :
    (s.withGeomRegs g u).tables = s.tables := by
  cases u <;> rfl
@[simp] theorem withGeomRegs_params (s : State) (g : GeomRegs) (u : GeomUnit) :
    (s.withGeomRegs g u).params = s.params := by
  cases u <;> rfl
@[simp] theorem withGeomRegs_status (s : State) (g : GeomRegs) (u : GeomUnit) :
    (s.withGeomRegs g u).status = s.status := by
  cases u <;> rfl
@[simp] theorem withGeomRegs_errinfo (s : State) (g : GeomRegs) (u : GeomUnit) :
    (s.withGeomRegs g u).errinfo = s.errinfo := by
  cases u <;> rfl
@[simp] theorem withGeomRegs_errval (s : State) (g : GeomRegs) (u : GeomUnit) :
    (s.withGeomRegs g u).errval = s.errval := by
  cases u <;> rfl
@[simp] theorem withGeomRegs_host (s : State) (g : GeomRegs) (u : GeomUnit) :
    (s.withGeomRegs g u).host = s.host := by
  cases u <;> rfl
@[simp] theorem withGeomRegs_bch (s : State) (g : GeomRegs) (u : GeomUnit) :
    (s.withGeomRegs g u).bch = s.bch := by
  cases u <;> rfl
@[simp] theorem withGeomRegs_ldpc (s : State) (g : GeomRegs) (u : GeomUnit) :
    (s.withGeomRegs g u).ldpc = s.ldpc := by
  cases u <;> rfl
@[simp] theorem withGeomRegs_bil (s : State) (g : GeomRegs) (u : GeomUnit) :
    (s.withGeomRegs g u).bil = s.bil := by
  cases u <;> rfl
@[simp] theorem rwWrite_tables (s : State) (v : Word) (r : RwReg) : (rwWrite s v r).tables = s.tables := by
  cases r <;> simp [rwWrite]
@[simp] theorem rwWrite_params (s : State) (v : Word) (r : RwReg) : (rwWrite s v r).params = s.params := by
  cases r <;> simp [rwWrite]
@[simp] theorem rwWrite_status (s : State) (v : Word) (r : RwReg) : (rwWrite s v r).status = s.status := by
  cases r <;> simp [rwWrite]
@[simp] theorem rwWrite_errinfo (s : State) (v : Word) (r : RwReg) : (rwWrite s v r).errinfo = s.errinfo := by
  cases r <;> simp [rwWrite]
@[simp] theorem rwWrite_errval (s : State) (v : Word) (r : RwReg) : (rwWrite s v r).errval = s.errval := by
  cases r <;> simp [rwWrite]
@[simp] theorem rwWrite_host (s : State) (v : Word) (r : RwReg) : (rwWrite s v r).host = s.host := by
  cases r <;> simp [rwWrite]
@[simp] theorem clearOwner_tables (s : State) (u : Option UnitId) : (s.clearOwner u).tables = s.tables := by
  cases u <;> rfl
@[simp] theorem clearOwner_params (s : State) (u : Option UnitId) : (s.clearOwner u).params = s.params := by
  cases u <;> rfl
@[simp] theorem clearOwner_errinfo (s : State) (u : Option UnitId) : (s.clearOwner u).errinfo = s.errinfo := by
  cases u <;> rfl
@[simp] theorem clearOwner_errval (s : State) (u : Option UnitId) : (s.clearOwner u).errval = s.errval := by
  cases u <;> rfl
@[simp] theorem clearOwner_bch (s : State) (u : Option UnitId) : (s.clearOwner u).bch = s.bch := by
  cases u <;> rfl
@[simp] theorem clearOwner_ldpc (s : State) (u : Option UnitId) : (s.clearOwner u).ldpc = s.ldpc := by
  cases u <;> rfl
@[simp] theorem clearOwner_bil (s : State) (u : Option UnitId) : (s.clearOwner u).bil = s.bil := by
  cases u <;> rfl
@[simp] theorem clearOwner_fm (s : State) (u : Option UnitId) : (s.clearOwner u).fm = s.fm := by
  cases u <;> rfl
@[simp] theorem clearOwner_fi (s : State) (u : Option UnitId) : (s.clearOwner u).fi = s.fi := by
  cases u <;> rfl
@[simp] theorem clearOwner_tr (s : State) (u : Option UnitId) : (s.clearOwner u).tr = s.tr := by
  cases u <;> rfl
@[simp] theorem clearOwner_host (s : State) (u : Option UnitId) : (s.clearOwner u).host = s.host := by
  cases u <;> rfl

/-! ## Queues -/

@[simp] theorem pushBits_tables (q : BitIn) (l : List Byte) (s : State) : (pushBits q l s).tables = s.tables := by
  cases q <;> rfl
@[simp] theorem pushCells_tables (q : CellIn) (l : List Cell) (s : State) : (pushCells q l s).tables = s.tables := by
  cases q <;> rfl
@[simp] theorem dropBits_tables (q : BitOut) (m : Nat) (s : State) : (dropBits q m s).tables = s.tables := by
  cases q <;> rfl
@[simp] theorem dropCells_tables (q : CellOut) (m : Nat) (s : State) : (dropCells q m s).tables = s.tables := by
  cases q <;> rfl
@[simp] theorem pushBits_params (q : BitIn) (l : List Byte) (s : State) : (pushBits q l s).params = s.params := by
  cases q <;> rfl
@[simp] theorem pushCells_params (q : CellIn) (l : List Cell) (s : State) : (pushCells q l s).params = s.params := by
  cases q <;> rfl
@[simp] theorem dropBits_params (q : BitOut) (m : Nat) (s : State) : (dropBits q m s).params = s.params := by
  cases q <;> rfl
@[simp] theorem dropCells_params (q : CellOut) (m : Nat) (s : State) : (dropCells q m s).params = s.params := by
  cases q <;> rfl
@[simp] theorem pushBits_status (q : BitIn) (l : List Byte) (s : State) : (pushBits q l s).status = s.status := by
  cases q <;> rfl
@[simp] theorem pushCells_status (q : CellIn) (l : List Cell) (s : State) : (pushCells q l s).status = s.status := by
  cases q <;> rfl
@[simp] theorem dropBits_status (q : BitOut) (m : Nat) (s : State) : (dropBits q m s).status = s.status := by
  cases q <;> rfl
@[simp] theorem dropCells_status (q : CellOut) (m : Nat) (s : State) : (dropCells q m s).status = s.status := by
  cases q <;> rfl
@[simp] theorem pushBits_errinfo (q : BitIn) (l : List Byte) (s : State) : (pushBits q l s).errinfo = s.errinfo := by
  cases q <;> rfl
@[simp] theorem pushCells_errinfo (q : CellIn) (l : List Cell) (s : State) : (pushCells q l s).errinfo = s.errinfo := by
  cases q <;> rfl
@[simp] theorem dropBits_errinfo (q : BitOut) (m : Nat) (s : State) : (dropBits q m s).errinfo = s.errinfo := by
  cases q <;> rfl
@[simp] theorem dropCells_errinfo (q : CellOut) (m : Nat) (s : State) : (dropCells q m s).errinfo = s.errinfo := by
  cases q <;> rfl
@[simp] theorem pushBits_errval (q : BitIn) (l : List Byte) (s : State) : (pushBits q l s).errval = s.errval := by
  cases q <;> rfl
@[simp] theorem pushCells_errval (q : CellIn) (l : List Cell) (s : State) : (pushCells q l s).errval = s.errval := by
  cases q <;> rfl
@[simp] theorem dropBits_errval (q : BitOut) (m : Nat) (s : State) : (dropBits q m s).errval = s.errval := by
  cases q <;> rfl
@[simp] theorem dropCells_errval (q : CellOut) (m : Nat) (s : State) : (dropCells q m s).errval = s.errval := by
  cases q <;> rfl
@[simp] theorem pushBits_host (q : BitIn) (l : List Byte) (s : State) : (pushBits q l s).host = s.host := by
  cases q <;> rfl
@[simp] theorem pushCells_host (q : CellIn) (l : List Cell) (s : State) : (pushCells q l s).host = s.host := by
  cases q <;> rfl
@[simp] theorem dropBits_host (q : BitOut) (m : Nat) (s : State) : (dropBits q m s).host = s.host := by
  cases q <;> rfl
@[simp] theorem dropCells_host (q : CellOut) (m : Nat) (s : State) : (dropCells q m s).host = s.host := by
  cases q <;> rfl

end Sys2Proof.Machine
end

