-- ==== Sys2Proof/Laws/Ops.lean ====
section
/-! SUPPORT. One lemma per shared operation that says everything it can do, so that a proof cites it instead of unfolding
the operation. -/

namespace Sys2Proof.Machine

open Sys2Proof.Config

/-! ## Errors and skeletons -/

theorem raise_of_first {e : ErrClass} {unit : BitVec 4} {val : Word} {s : State} (h : s.errCode = 0#4) :
    raise e unit val s =
      { s with
        status := setFlag s.status e.statusBit
        errinfo := (unit ++ e.code).setWidth 32
        errval := val } := by
  simp [raise, h]

theorem raise_of_later {e : ErrClass} {unit : BitVec 4} {val : Word} {s : State} (h : s.errCode ≠ 0#4) :
    raise e unit val s = { s with status := setFlag s.status e.statusBit } := by
  simp [raise, h]

theorem streaming_of_not_built {u : UnitId} {w : Word} {short bad : Bool} {fire : State → State} {s : State}
    (h : s.isBuilt u = false) : streaming u w short bad fire s = raise .notBuilt u.number w s := by
  simp [streaming, h]

theorem streaming_of_short {u : UnitId} {w : Word} {bad : Bool} {fire : State → State} {s : State}
    (h : s.isBuilt u = true) : streaming u w true bad fire s = raise .underrun u.number w s := by
  simp [streaming, h]

theorem streaming_of_bad {u : UnitId} {w : Word} {fire : State → State} {s : State} (h : s.isBuilt u = true) :
    streaming u w false true fire s = raise .badItem u.number w s := by
  simp [streaming, h]

theorem streaming_of_ready {u : UnitId} {w : Word} {fire : State → State} {s : State} (h : s.isBuilt u = true) :
    streaming u w false false fire s = fire s := by
  simp [streaming, h]

/-- Everything the streaming skeleton can do. -/
theorem streaming_cases (u : UnitId) (w : Word) (short bad : Bool) (fire : State → State) (s : State) :
    (∃ e : ErrClass, streaming u w short bad fire s = raise e u.number w s) ∨
      (s.isBuilt u = true ∧ short = false ∧ bad = false ∧ streaming u w short bad fire s = fire s) := by
  cases hb : s.isBuilt u <;> cases short <;> cases bad <;> simp [streaming, hb] <;> exact ⟨_, rfl⟩

theorem building_of_none {δ : Type} {u : UnitId} {w : Word} {install : δ → State → State} {s : State} :
    building u w none install s = raise .cfgError u.number w (s.clearBuilt u) := rfl

theorem building_of_some {δ : Type} {u : UnitId} {w : Word} {d : δ} {install : δ → State → State} {s : State} :
    building u w (some d) install s = (install d (s.clearBuilt u)).setBuilt u := rfl

/-! ## Flags -/

theorem getLsbD_setFlag (w : Word) (k j : Nat) :
    (setFlag w k).getLsbD j = (w.getLsbD j || (decide (j < 32) && decide (j = k))) := by
  unfold setFlag
  rw [BitVec.getLsbD_or, BitVec.getLsbD_shiftLeft]
  by_cases hj : j < 32 <;> by_cases hjk : j = k
  · subst hjk; simp [hj]
  · by_cases hlt : j < k
    · simp [hlt, hjk]
    · have : j - k ≠ 0 := by omega
      simp [BitVec.getLsbD_one, hlt, hjk, this]
  · subst hjk; simp [hj]
  · simp [hj]

theorem getLsbD_clearFlag (w : Word) (k j : Nat) :
    (clearFlag w k).getLsbD j = (w.getLsbD j && !decide (j = k)) := by
  unfold clearFlag
  rw [BitVec.getLsbD_and, BitVec.getLsbD_not, BitVec.getLsbD_shiftLeft]
  by_cases hj : j < 32
  · by_cases hjk : j = k
    · subst hjk; simp [hj]
    · by_cases hlt : j < k
      · simp [hj, hjk, hlt]
      · have : j - k ≠ 0 := by omega
        simp [hj, BitVec.getLsbD_one, hlt, hjk, this]
  · simp [BitVec.getLsbD_of_ge w j (by omega)]

theorem isBuilt_setBuilt (s : State) (u v : UnitId) :
    (s.setBuilt u).isBuilt v = (s.isBuilt v || decide (v = u)) := by
  simp only [State.isBuilt, setBuilt_status, getLsbD_setFlag]
  cases u <;> cases v <;> simp [UnitId.builtBit]

theorem isBuilt_clearBuilt (s : State) (u v : UnitId) :
    (s.clearBuilt u).isBuilt v = (s.isBuilt v && !decide (v = u)) := by
  simp only [State.isBuilt, clearBuilt_status, getLsbD_clearFlag]
  cases u <;> cases v <;> simp [UnitId.builtBit]

theorem isBuilt_raise (e : ErrClass) (unit : BitVec 4) (val : Word) (s : State) (u : UnitId) :
    (raise e unit val s).isBuilt u = s.isBuilt u := by
  simp only [State.isBuilt, raise_status, getLsbD_setFlag]
  cases e <;> cases u <;> simp [UnitId.builtBit, ErrClass.statusBit]

theorem hasError_raise (e f : ErrClass) (unit : BitVec 4) (val : Word) (s : State) :
    (raise e unit val s).hasError f = (s.hasError f || decide (f = e)) := by
  simp only [State.hasError, raise_status, getLsbD_setFlag]
  cases e <;> cases f <;> simp [ErrClass.statusBit]

/-! ## Bit items -/

@[simp] theorem length_emitMsb {n : Nat} (v : BitVec n) : (emitMsb v).length = n := by simp [emitMsb]

@[simp] theorem isBitItem_bitItem (b : Bool) : isBitItem (bitItem b) = true := by cases b <;> decide

@[simp] theorem itemBit_bitItem (b : Bool) : itemBit (bitItem b) = b := by cases b <;> decide

theorem isBitItem_of_mem_emitMsb {n : Nat} {v : BitVec n} {x : Byte} (h : x ∈ emitMsb v) : isBitItem x = true := by
  obtain ⟨i, -, rfl⟩ := List.mem_map.1 h
  exact isBitItem_bitItem _

theorem bitItem_itemBit {x : Byte} (h : isBitItem x = true) : bitItem (itemBit x) = x := by
  simp only [isBitItem, Bool.or_eq_true, beq_iff_eq] at h
  rcases h with rfl | rfl <;> decide

theorem hasBadItem_eq_false {q : List Byte} {n : Nat} :
    hasBadItem q n = false ↔ ∀ x ∈ q.take n, isBitItem x = true := by
  simp [hasBadItem]

/-! ## Permutations -/

theorem testBit_valueMask_foldl (l : List Nat) (m i : Nat) :
    (l.foldl (fun m i => m ||| 1 <<< i) m).testBit i = (m.testBit i || decide (i ∈ l)) := by
  induction l generalizing m with
  | nil => simp
  | cons a l ih =>
    rw [List.foldl_cons, ih, Nat.testBit_or, Nat.one_shiftLeft, Nat.testBit_two_pow]
    by_cases h : i = a <;> simp [h, eq_comm]

theorem testBit_valueMask (l : List Nat) (i : Nat) : (valueMask l).testBit i = decide (i ∈ l) := by
  simp [valueMask, testBit_valueMask_foldl]

/-- What the permutation test decides. -/
theorem isPerm_iff (l : List Nat) (n : Nat) : isPerm l n = true ↔ l.Perm (List.range n) := by
  simp only [isPerm, Bool.and_eq_true, beq_iff_eq, Nat.one_shiftLeft]
  constructor
  · rintro ⟨hl, hm⟩
    have hmem : ∀ i, i ∈ l ↔ i < n := fun i => by
      have h := testBit_valueMask l i
      rw [hm, Nat.testBit_two_pow_sub_one] at h
      simpa using h.symm
    have hsub : List.range n ⊆ l := fun i hi => (hmem i).2 (List.mem_range.1 hi)
    exact ((List.nodup_range.subperm hsub).perm_of_length_le (by simp [hl])).symm
  · intro h
    refine ⟨by simpa using h.length_eq, Nat.eq_of_testBit_eq fun i => ?_⟩
    rw [testBit_valueMask, Nat.testBit_two_pow_sub_one]
    simp [h.mem_iff]

@[simp] theorem length_gather {α : Type} (d : α) (s : List α) (idx : List Nat) :
    (gather d s idx).length = idx.length := by simp [gather]

/-! ## Registers -/

theorem regWrite_of_rw {i : BitVec 8} {r : RwReg} (h : regAt i = .rw r) (v : Word) (s : State) :
    regWrite i v s = (rwWrite s v r).clearOwner r.owner := by
  simp [regWrite, h]

theorem regWrite_of_ro {i : BitVec 8} {r : RoReg} (h : regAt i = .ro r) (v : Word) (s : State) :
    regWrite i v s = raise .badReg 0#4 (i.setWidth 32) s := by
  simp [regWrite, h]

theorem regWrite_of_unimplemented {i : BitVec 8} (h : regAt i = .unimplemented) (v : Word) (s : State) :
    regWrite i v s = raise .badReg 0#4 (i.setWidth 32) s := by
  simp [regWrite, h]

end Sys2Proof.Machine
end

