-- ==== Sys2Proof/Laws/Build.lean ====
section
/-! SUPPORT. What each BUILD's derivation answers, by the checks as the spec words them: one lemma per unit, so that no proof
unfolds a derivation. -/

namespace Sys2Proof.Machine

open Sys2Proof.Config

/-- Clearing a flag before setting it leaves no trace. -/
theorem setFlag_clearFlag (w : Word) (k : Nat) : setFlag (clearFlag w k) k = setFlag w k := by
  apply BitVec.eq_of_getLsbD_eq; intro j hj
  rw [getLsbD_setFlag, getLsbD_setFlag, getLsbD_clearFlag]
  by_cases h : j = k
  · subst h; simp [hj]
  · simp [h]

/-- `BCH.BUILD` derives a state exactly from a configuration that passes 41_bch.md R121. -/
theorem bchDerive_isSome_iff (t : Tables) (p : Params) (u : BchRegs) :
    (bchDerive t p u).isSome = true ↔ BchConfigOk t p u := by
  have hk : u.kbch ≠ 0#16 ↔ u.kbch.toNat ≠ 0 := by
    rw [ne_eq, ← BitVec.toNat_inj]; rfl
  unfold bchDerive
  constructor
  · intro h
    split at h
    · simp at h
    · next m hm =>
      simp only at h
      split at h
      · next hc => exact ⟨⟨m, hm⟩, hk.1 hc.1, hc.2.1, hc.2.2⟩
      · simp at h
  · intro h
    obtain ⟨m, hm⟩ := h.mode
    rw [hm]
    simp only
    rw [if_pos ⟨hk.2 h.nonzero, h.bytes, h.degree⟩]
    rfl

/-- The eight geometry fields legal (44_frame_mapper.md R181 (a)). -/
theorem geomKeyOf_eq_some_iff (e : Enums) (g : GeomRegs) (k : GeomKey) : geomKeyOf e g = some k ↔
    (fftOf e g.fftSize = some k.fft ∧ guardIntervalOf e g.guardInterval = some k.guardInterval ∧
      pilotPatternOf e g.pilotPattern = some k.pilotPattern ∧ g.reducedCarriers = k.reducedCarriers ∧
      g.numPreambleSyms = k.numPreambleSyms ∧ g.numPayloadSyms = k.numPayloadSyms ∧ g.sbsFirst = k.sbsFirst ∧
      g.l1bMode = k.l1bMode ∧ 1 ≤ g.numPreambleSyms.toNat ∧ 1 ≤ g.numPayloadSyms.toNat) := by
  have e1 : g.numPreambleSyms = 0#4 ↔ ¬ 1 ≤ g.numPreambleSyms.toNat := by
    rw [← BitVec.toNat_inj]; simp
  have e2 : g.numPayloadSyms = 0#11 ↔ ¬ 1 ≤ g.numPayloadSyms.toNat := by
    rw [← BitVec.toNat_inj]; simp
  unfold geomKeyOf
  constructor
  · intro h
    split at h
    · simp at h
    · next hn =>
      rw [not_or, e1, e2, not_not, not_not] at hn
      split at h
      · next hf hg hp =>
        injection h with h
        subst h
        exact ⟨hf, hg, hp, rfl, rfl, rfl, rfl, rfl, hn.1, hn.2⟩
      · simp at h
  · rintro ⟨a, b, c, d, e', f, g1, h, i, j⟩
    rw [if_neg (by rw [e1, e2]; tauto), a, b, c]
    simp only
    cases k
    simp_all

/-- The well-formedness test is 10_state.md R37. -/
theorem geometryOk_iff (p : Params) (k : GeomKey) (geo : Geometry) (hp : 1 ≤ k.numPreambleSyms.toNat) (hq : 1 ≤ k.numPayloadSyms.toNat) :
    geometryOk p k geo = true ↔ GeometryWf p k geo := by
  unfold geometryOk symTypesOk
  simp only [Bool.and_eq_true, List.all_eq_true, List.mem_range, decide_eq_true_eq, Bool.beq_eq_decide_eq]
  constructor
  · rintro ⟨⟨⟨⟨⟨⟨⟨⟨hs, h1⟩, h2⟩, h3⟩, h4⟩, ⟨hb1, hb2⟩, hb3⟩, hc⟩, hd⟩, he⟩
    have hlt : k.numPreambleSyms.toNat < geo.symbols := by omega
    have hpre : ∀ l, l < geo.symbols → (geo.symType.getD l .data = .preamble ↔ l < k.numPreambleSyms.toNat) := by
      intro l hl
      have := hb1 l hl
      constructor
      · intro hh; rw [hh] at this; simpa using this
      · intro hh; simp [hh] at this; simpa using this
    refine ⟨hs, ⟨h1, h2, h3⟩, h4, hpre, hb2, ?_, ?_, ?_, ?_, hd, fun c hc => he c hc⟩
    · intro h; simpa [h] using hb3
    · intro h; simpa [h] using hb3
    · have := hc 0 (by omega)
      rw [this]; unfold ceilingOf; rw [(hpre 0 (by omega)).2 (by omega)]; simp
    · intro l h0 hl
      have := hc l hl
      rw [this]; unfold ceilingOf
      refine ⟨fun h => ?_, fun h => ?_, fun h => ?_⟩
      · rw [h]; simp; omega
      · rw [h]
      · rw [h]
  · intro w
    have hs := w.symbols
    have hlt : k.numPreambleSyms.toNat < geo.symbols := by omega
    refine ⟨⟨⟨⟨⟨⟨⟨⟨w.symbols, w.lengths.1⟩, w.lengths.2.1⟩, w.lengths.2.2⟩, w.total⟩, ⟨?_, w.last⟩, ?_⟩, ?_⟩, w.ceilings⟩, w.carriers⟩
    · intro l hl
      have := w.preambles l hl
      by_cases h : l < k.numPreambleSyms.toNat
      · simp only [h]; simpa using this.2 h
      · simp only [h]; simpa using mt this.1 h
    · by_cases h : k.sbsFirst = 1#1
      · simpa [h] using w.sbsFirst h
      · have h0 : k.sbsFirst = 0#1 := by
          revert h; generalize k.sbsFirst = x; revert x; decide
        simpa [h, h0] using w.dataFirst h0
    · intro l hl
      unfold ceilingOf
      rcases Nat.eq_zero_or_pos l with h0 | h0
      · subst h0
        rw [(w.preambles 0 hl).2 (by omega)]; simpa using w.firstCells
      · have := w.cells l h0 hl
        rcases hh : geo.symType.getD l .data with _ | _ | _
        · simp; rw [if_neg (by omega)]; exact this.1 hh
        · exact this.2.1 hh
        · exact this.2.2 hh

/-- The geometry lookup succeeds exactly under the geometry checks. -/
theorem geometryOf_eq_some_iff (t : Tables) (p : Params) (g : GeomRegs) (k : GeomKey) (geo : Geometry) :
    geometryOf t p g = some (k, geo) ↔ GeomConfigOk t p g k geo := by
  unfold geometryOf
  constructor
  · intro h
    split at h
    · simp at h
    · next k' hk =>
      split at h
      · simp at h
      · next geo' hg =>
        split at h
        · next hok =>
          injection h with h; injection h with h1 h2; subst h1; subst h2
          have := (geomKeyOf_eq_some_iff p.enums g k').1 hk
          obtain ⟨a, b, c, d, e, f, g1, h, i, j⟩ := this
          exact ⟨a, b, c, d, e, f, g1, h, i, j, hg, (geometryOk_iff p k' geo' (e ▸ i) (f ▸ j)).1 hok⟩
        · simp at h
  · intro h
    rw [(geomKeyOf_eq_some_iff p.enums g k).2 ⟨h.fft, h.guardInterval, h.pilotPattern, h.reducedCarriers, h.numPreambleSyms, h.numPayloadSyms, h.sbsFirst, h.l1bMode, h.somePreamble, h.somePayload⟩]
    simp only [h.entry]
    rw [if_pos ((geometryOk_iff p k geo (h.numPreambleSyms ▸ h.somePreamble) (h.numPayloadSyms ▸ h.somePayload)).2 h.wf)]

/-- The test of 45_freq_interleaver.md R211 (c). -/
theorem fiVectorsOk_iff (geo : Geometry) (v : FiVectors) : fiVectorsOk geo v = true ↔ FiVectorsPerm geo v := by
  simp only [fiVectorsOk, Bool.and_eq_true, isPerm_iff]
  constructor
  · rintro ⟨⟨⟨⟨⟨⟨⟨a,b⟩,c⟩,d⟩,e⟩,f⟩,g⟩,h⟩; exact ⟨a,b,c,d,e,f,g,h⟩
  · rintro ⟨a,b,c,d,e,f,g,h⟩; exact ⟨⟨⟨⟨⟨⟨⟨a,b⟩,c⟩,d⟩,e⟩,f⟩,g⟩,h⟩

/-- The test of 45_freq_interleaver.md R211 (b). -/
theorem fiGeneratorOk_iff (t : Tables) (p : Params) (fft : Fft) (n nr : Nat) :
   FiGeneratorOk t p fft n nr ↔ (nr = (p.fiMaxStates.get fft).log2 ∧ fiParamsOk t p fft n = true) := by
  unfold fiParamsOk
  simp only [Bool.and_eq_true, decide_eq_true_eq, isPerm_iff, List.all_eq_true, List.mem_range]
  constructor
  · intro h
    have hl : nr = (p.fiMaxStates.get fft).log2 := by rw [h.states, Nat.log2_two_pow]
    refine ⟨hl, ?_⟩
    rw [← hl]
    refine ⟨⟨⟨⟨⟨h.states.symm, h.wide⟩, h.even⟩, h.odd⟩, h.taps⟩, ?_⟩
    intro k hk
    obtain ⟨off, ho, hlt⟩ := h.offsets k (by omega)
    simp [ho, hlt]
  · rintro ⟨hl, ⟨⟨⟨⟨a, b⟩, c⟩, d⟩, e⟩, f⟩
    rw [← hl] at *
    refine ⟨a.symm, b, c, d, e, ?_⟩
    intro k hk
    have := f k (by omega)
    split at this
    · next off ho => exact ⟨off, ho, by simpa using this⟩
    · simp at this

/-- What `FI.BUILD` derives, and when. -/
theorem fiDerive_eq_some_iff (t : Tables) (p : Params) (u : FiRegs) (d : FiDerived) : fiDerive t p u = some d ↔
   ∃ k geo nr, GeomConfigOk t p u.geom k geo ∧ FiGeneratorOk t p k.fft geo.symbols nr ∧
     (∀ l, l < geo.symbols → FiVectorsPerm geo (fiPass t k.fft geo nr l)) ∧
     d = ⟨geo, k.fft, fiModeOf p.enums u.mode, (List.range geo.symbols).map (fiPass t k.fft geo nr)⟩ := by
  unfold fiDerive
  constructor
  · intro h
    split at h
    · simp at h
    · next k geo hg =>
      split at h
      · next hp =>
        simp only at h
        split at h
        · next hv =>
          injection h with h
          refine ⟨k, geo, _, (geometryOf_eq_some_iff ..).1 hg, (fiGeneratorOk_iff ..).2 ⟨rfl, hp⟩, ?_, h.symm⟩
          intro l hl
          simp only [List.all_eq_true, List.mem_map, List.mem_range] at hv
          exact (fiVectorsOk_iff ..).1 (hv _ ⟨l, hl, rfl⟩)
        · simp at h
      · simp at h
  · rintro ⟨k, geo, nr, hg, hp, hv, rfl⟩
    rw [(geometryOf_eq_some_iff ..).2 hg]
    simp only
    obtain ⟨rfl, hp2⟩ := (fiGeneratorOk_iff ..).1 hp
    rw [if_pos hp2, if_pos]
    simp only [List.all_eq_true, List.mem_map, List.mem_range]
    rintro _ ⟨l, hl, rfl⟩
    exact (fiVectorsOk_iff ..).2 (hv l hl)

/-- What `TR.BUILD` derives, and when. -/
theorem trDerive_eq_some_iff (t : Tables) (p : Params) (u : TrRegs) (d : TrDerived) : trDerive t p u = some d ↔
   ∃ k geo, GeomConfigOk t p u.geom k geo ∧ (paprModeOf p.enums u.paprMode = .tr → TrTonesOk t p u k) ∧
    d = ⟨geo, k.fft, paprModeOf p.enums u.paprMode, p.fiMaxStates.get k.fft, t.trTones.get k.fft, (t.trTones.get k.fft).length,
     t.pilotDx.lookup k.pilotPattern, t.pilotDy.lookup k.pilotPattern, u.numIter.toNat, sampleUnits u.vclip, u.shiftOffset.toNat⟩ := by
  have ht : ∀ k, trToneChecks (t.trTones.get k.fft) (p.fiMaxStates.get k.fft) (t.pilotDx.lookup k.pilotPattern) (t.pilotDy.lookup k.pilotPattern) (sampleUnits u.vclip) = true ↔ TrTonesOk t p u k := by
    intro k
    unfold trToneChecks
    simp only [Bool.and_eq_true, Bool.not_eq_true', List.all_eq_true, decide_eq_true_eq]
    constructor
    · rintro ⟨⟨⟨⟨⟨a, b⟩, c⟩, d⟩, e⟩, f⟩
      refine ⟨by simpa [List.isEmpty_iff] using a, b, c, Option.isSome_iff_exists.1 d, ?_, ?_⟩
      · split at e
        · next y hy => exact ⟨y, hy, by simpa using e⟩
        · simp at e
      · split at f
        · next y hy => exact ⟨y, hy, by simpa using f⟩
        · simp at f
    · intro h
      obtain ⟨y, hy, hy1⟩ := h.dy
      obtain ⟨v, hv, hv1⟩ := h.clip
      refine ⟨⟨⟨⟨⟨by simpa [List.isEmpty_iff] using h.nonempty, h.below⟩, h.distinct⟩, Option.isSome_iff_exists.2 h.dx⟩, ?_⟩, ?_⟩
      · simp [hy, hy1]
      · simp [hv, hv1]
  unfold trDerive
  constructor
  · intro h
    split at h
    · simp at h
    · next k geo hg =>
      simp only at h
      split at h
      · next hc =>
        injection h with h
        refine ⟨k, geo, (geometryOf_eq_some_iff ..).1 hg, ?_, h.symm⟩
        intro h1
        rcases hc with hc | hc
        · exact absurd h1 hc
        · exact (ht k).1 hc
      · simp at h
  · rintro ⟨k, geo, hg, h1, rfl⟩
    rw [(geometryOf_eq_some_iff ..).2 hg]
    simp only
    rw [if_pos]
    by_cases hh : paprModeOf p.enums u.paprMode = .tr
    · exact .inr ((ht k).2 (h1 hh))
    · exact .inl hh

/-- What `FM.BUILD` derives, and when. -/
theorem fmDerive_eq_some_iff (t : Tables) (p : Params) (u : FmRegs) (d : FmDerived) : fmDerive t p u = some d ↔
   ∃ k geo, GeomConfigOk t p u.geom k geo ∧ FmCellsOk p u geo ∧
    d = ⟨geo, u.l1bCells.toNat, u.l1dCells.toNat, geo.totalCells - u.l1bCells.toNat - u.l1dCells.toNat⟩ := by
  unfold fmDerive
  constructor
  · intro h
    split at h
    · simp at h
    · next k geo hg =>
      simp only at h
      split at h
      · next hc => injection h with h; exact ⟨k, geo, (geometryOf_eq_some_iff ..).1 hg, hc, h.symm⟩
      · simp at h
  · rintro ⟨k, geo, hg, h1, rfl⟩
    rw [(geometryOf_eq_some_iff ..).2 hg]
    simp only
    rw [if_pos (show _ ∧ _ from h1)]

/-- What `BIL.BUILD` derives, and when. -/
theorem bilDerive_eq_some_iff (t : Tables) (p : Params) (u : BilRegs) (d : BilDerived) : bilDerive t p u = some d ↔
   ∃ perm, BilConfigOk t p u perm ∧ d = ⟨t.frameBits.get (frameSizeOf p.enums u.frameSize), perm⟩ := by
  unfold bilDerive
  constructor
  · intro h
    simp only at h
    split at h
    · next r m hr hm =>
      split at h
      · simp at h
      · next perm hp =>
        split at h
        · next hc => injection h with h; exact ⟨perm, ⟨⟨r, m, hr, hm, hp⟩, (isPerm_iff ..).1 hc⟩, h.symm⟩
        · simp at h
    · simp at h
  · rintro ⟨perm, ⟨⟨r, m, hr, hm, hp⟩, hc⟩, rfl⟩
    simp only [hr, hm, hp]
    rw [if_pos ((isPerm_iff ..).2 hc)]


/-- Appending an index changes the one list it names. -/
theorem getD_appendAt (lut : List (List Nat)) (t i k : Nat) (ht : t < lut.length) :
   (appendAt lut t i).getD k [] = lut.getD k [] ++ (if t = k then [i] else []) := by
  unfold appendAt
  by_cases h : t = k
  · subst h; simp [List.getD_eq_getElem?_getD, ht]
  · simp [List.getD_eq_getElem?_getD, h]

@[simp] theorem length_appendAt (lut : List (List Nat)) (t i : Nat) : (appendAt lut t i).length = lut.length := by
  simp [appendAt]

/-- One address of a row contributes its members in order. -/
theorem ldpcExpandAddress_spec (dims) (p g a : Nat) (lut : List (List Nat)) (h : ∀ m, ldpcTarget dims p a m < lut.length) (M : Nat) :
   let r := (List.range M).foldl (fun acc m => appendAt acc (ldpcTarget dims p a m) (ldpcGroup * g + m)) lut
   r.length = lut.length ∧ ∀ k, r.getD k [] = lut.getD k [] ++ ((List.range M).filter (fun m => ldpcTarget dims p a m == k)).map (fun m => 360 * g + m) := by
  induction M with
  | zero => simp
  | succ M ih =>
    simp only [List.range_succ, List.foldl_append, List.foldl_cons, List.foldl_nil]
    obtain ⟨h1, h2⟩ := ih
    refine ⟨by simpa using h1, fun k => ?_⟩
    rw [getD_appendAt _ _ _ _ (by rw [h1]; exact h M), h2]
    by_cases hk : ldpcTarget dims p a M = k <;> simp [List.filter_append, hk, ldpcGroup]

/-- One row contributes its addresses in order. -/
theorem ldpcExpandRow_spec (dims) (p g : Nat) (row : List Nat) (lut : List (List Nat)) (h : ∀ a ∈ row, ∀ m, ldpcTarget dims p a m < lut.length) :
   let r := row.foldl (fun acc a => ldpcExpandAddress dims p g a acc) lut
   r.length = lut.length ∧ ∀ k, r.getD k [] = lut.getD k [] ++ row.flatMap (fun a => ((List.range 360).filter (fun m => ldpcTarget dims p a m == k)).map (fun m => 360 * g + m)) := by
  induction row generalizing lut with
  | nil => simp
  | cons a row ih =>
    have h0 := ldpcExpandAddress_spec dims p g a lut (h a (by simp)) 360
    simp only at h0
    have := ih (ldpcExpandAddress dims p g a lut) (by
      intro b hb m; unfold ldpcExpandAddress; rw [show ldpcGroup = 360 from rfl] at *; rw [h0.1]; exact h b (by simp [hb]) m)
    simp only at this
    refine ⟨?_, fun k => ?_⟩
    · simp only [List.foldl_cons]; rw [this.1]; exact h0.1
    · simp only [List.foldl_cons, List.flatMap_cons]
      rw [this.2, ← List.append_assoc]; congr 1
      exact h0.2 k

/-- The rows contribute in order. -/
theorem ldpcExpandRows_spec (dims) (p g : Nat) (rows : List (List Nat)) (lut : List (List Nat)) (h : ∀ row ∈ rows, ∀ a ∈ row, ∀ m, ldpcTarget dims p a m < lut.length) :
   (ldpcExpandRows dims p g rows lut).length = lut.length ∧ ∀ k, (ldpcExpandRows dims p g rows lut).getD k [] = lut.getD k [] ++
     (rows.zipIdx g).flatMap fun e => e.1.flatMap fun a => ((List.range 360).filter (fun m => ldpcTarget dims p a m == k)).map (fun m => 360 * e.2 + m) := by
  induction rows generalizing lut g with
  | nil => simp [ldpcExpandRows]
  | cons row rows ih =>
    have h0 := ldpcExpandRow_spec dims p g row lut (h row (by simp))
    simp only at h0
    have := ih (g+1) (row.foldl (fun acc a => ldpcExpandAddress dims p g a acc) lut) (by
      intro r hr a ha m; rw [h0.1]; exact h r (by simp [hr]) a ha m)
    simp only [ldpcExpandRows, List.zipIdx_cons, List.flatMap_cons]
    refine ⟨by rw [this.1, h0.1], fun k => ?_⟩
    rw [this.2, h0.2, List.append_assoc]

/-- A contribution lands on a parity bit (42_ldpc.md R152, R153). -/
theorem ldpcTarget_lt (dims) (p a m : Nat) (h : ldpcDimsOk dims p = true) (hp : 0 < p) : ldpcTarget dims p a m < p := by
  cases dims with
  | typeA q1 q2 m1 m2 =>
    simp only [ldpcDimsOk, Bool.and_eq_true, bne_iff_ne, beq_iff_eq] at h
    simp only [ldpcTarget]
    split
    · have := Nat.mod_lt (a + m * q1) (show m1 > 0 by omega); omega
    · have := Nat.mod_lt (a - m1 + m * q2) (show m2 > 0 by omega); omega
  | typeB q => exact Nat.mod_lt _ hp

/-- The expansion is the list of contributions of each parity bit. -/
theorem ldpcExpand_spec (dims) (p : Nat) (rows) (h : ldpcDimsOk dims p = true) (hp : 0 < p) :
   (ldpcExpand dims p rows).length = p ∧ ∀ k, (ldpcExpand dims p rows).getD k [] = ldpcContributions (ldpcTarget dims p) rows k := by
  have := ldpcExpandRows_spec dims p 0 rows (List.replicate p []) (by intros; rw [List.length_replicate]; exact ldpcTarget_lt _ _ _ _ h hp)
  refine ⟨by simpa [ldpcExpand] using this.1, fun k => ?_⟩
  rw [ldpcExpand, this.2, ldpcContributions]
  have : (List.replicate p ([] : List Nat)).getD k [] = [] := by
    simp [List.getD_eq_getElem?_getD, List.getElem?_replicate]; split <;> rfl
  rw [this]; rfl

/-- A contribution comes from a row of the table. -/
theorem lt_of_mem_ldpcContributions {index : Nat → Nat → Nat} {k i : Nat} {rows : List (List Nat)}
    (h : i ∈ ldpcContributions index rows k) : i < 360 * rows.length := by
  simp only [ldpcContributions, List.mem_flatMap, List.mem_map, List.mem_filter, List.mem_range] at h
  obtain ⟨e, he, a, -, m, ⟨hm, -⟩, rfl⟩ := h
  obtain ⟨-, hlt, -⟩ := List.mem_zipIdx he
  omega

/-- The index the machine computes for a contribution is that of 42_ldpc.md R152 and R153. -/
theorem ldpcTarget_ldpcDimsOf (p : Params) (u : LdpcRegs) (parity : Nat) :
    ldpcTarget (ldpcDimsOf p.enums u) parity = ldpcParityIndex p u parity := by
  funext a m
  unfold ldpcDimsOf ldpcParityIndex
  cases ldpcTypeOf p.enums u.type <;> rfl

/-- What `LDPC.BUILD` derives, and when. -/
theorem ldpcDerive_eq_some_iff (t : Tables) (p : Params) (u : LdpcRegs) (d : LdpcDerived) : ldpcDerive t p u = some d ↔
   ∃ rows, LdpcConfigOk t p u rows ∧ LdpcOrder t p u rows ∧
     d = ⟨t.frameBits.get (frameSizeOf p.enums u.frameSize), u.nbch.toNat, ldpcParityCount t p u,
       ldpcExpand (ldpcDimsOf p.enums u) (ldpcParityCount t p u) rows⟩ := by
  have hdims : ∀ n, ldpcDimsOk (ldpcDimsOf p.enums u) n = true ↔
     ((ldpcTypeOf p.enums u.type = .typeA →
        u.q1.toNat ≠ 0 ∧ u.q2.toNat ≠ 0 ∧ u.m1.toNat ≠ 0 ∧ u.m2.toNat ≠ 0 ∧ u.m1.toNat + u.m2.toNat = n) ∧
      (ldpcTypeOf p.enums u.type = .typeB → u.q.toNat ≠ 0)) := by
    intro n
    cases h : ldpcTypeOf p.enums u.type <;> simp [ldpcDimsOf, h, ldpcDimsOk, and_assoc]
  have hrows : ∀ n, ldpcRowCountOk (ldpcDimsOf p.enums u) n u.nbch.toNat
        (t.frameBits.get (frameSizeOf p.enums u.frameSize)) = true ↔
     (u.nbch.toNat ≤ ldpcGroup * n ∧ ldpcGroup * n ≤ t.frameBits.get (frameSizeOf p.enums u.frameSize) ∧
       (ldpcTypeOf p.enums u.type = .typeB → ldpcGroup * n = u.nbch.toNat)) := by
    intro n
    cases h : ldpcTypeOf p.enums u.type <;> simp [ldpcDimsOf, h, ldpcRowCountOk, and_assoc]
  have hord : ∀ rows, ldpcDimsOk (ldpcDimsOf p.enums u) (ldpcParityCount t p u) = true → 0 < ldpcParityCount t p u →
      (ldpcOrderOk u.nbch.toNat (ldpcExpand (ldpcDimsOf p.enums u) (ldpcParityCount t p u) rows) = true ↔
        LdpcOrder t p u rows) := by
    intro rows h1 h2
    have := ldpcExpand_spec _ _ rows h1 h2
    simp only [ldpcOrderOk, LdpcOrder, List.all_eq_true, List.mem_range, decide_eq_true_eq, this.1, this.2,
      ldpcTarget_ldpcDimsOf]
  unfold ldpcDerive
  simp only
  constructor
  · intro h
    split at h
    · next hc =>
      split at h
      · simp at h
      · next rate hr =>
        split at h
        · simp at h
        · next rows hl =>
          split at h
          · next hrc =>
            split at h
            · next ho =>
              injection h with h
              have hd := (hdims _).1 hc.2.2.2
              have hr2 := (hrows _).1 hrc.1
              refine ⟨rows, ⟨⟨rate, hr, hl⟩, fun h0 => hc.1 h0, hc.2.1, hc.2.2.1, hd.1, fun hb => ⟨hd.2 hb, hr2.2.2 hb⟩, hr2.1, hr2.2.1, ?_⟩, ?_, h.symm⟩
              · simpa [List.all_eq_true, ldpcParityCount] using hrc.2
              · exact (hord rows hc.2.2.2 (by unfold ldpcParityCount; omega)).1 ho
            · simp at h
          · simp at h
    · simp at h
  · rintro ⟨rows, hc, ho, rfl⟩
    have hd : ldpcDimsOk (ldpcDimsOf p.enums u) (ldpcParityCount t p u) = true := (hdims _).2 ⟨hc.typeA, fun h => (hc.typeB h).1⟩
    rw [if_pos ⟨hc.nonzero, hc.groups, hc.room, hd⟩]
    obtain ⟨rate, hr, hl⟩ := hc.entry
    simp only [hr, hl]
    have h1 := hc.room
    rw [if_pos ⟨(hrows _).2 ⟨hc.cover, hc.fit, fun h => (hc.typeB h).2⟩, by simpa [List.all_eq_true, ldpcParityCount] using hc.addresses⟩,
      show ldpcExpand (ldpcDimsOf p.enums u) (t.frameBits.get (frameSizeOf p.enums u.frameSize) - u.nbch.toNat) rows = ldpcExpand (ldpcDimsOf p.enums u) (ldpcParityCount t p u) rows from rfl,
      if_pos ((hord rows hd (by unfold ldpcParityCount; omega)).2 ho)]
    rfl

end Sys2Proof.Machine
end

