-- ==== Sys2Proof/Laws/PerInstr.lean ====
section
/-! SUPPORT. A family of facts with one lemma per constructor: the word of a command matches its row of the opcode map
(30_encoding.md R93). -/

namespace Sys2Proof.Laws.MatchesRow

/-- The `mask` column of 30_encoding.md R93. -/
def rowMask : Instr → Word
  | .bchEnc _ | .ldpcEnc _ | .bilPerm _ | .fmMap _ | .fiSym _ | .trSym _ => 0xFFFF0000#32
  | .sysNop | .sysReset | .bchBuild | .ldpcBuild | .bilBuild | .fmBuild | .fmL1b | .fmL1d | .fiBuild | .trBuild =>
    0xFFFFFFFF#32

/-- The `match` column of 30_encoding.md R93. -/
def rowMatch : Instr → Word
  | .sysNop => 0x00000000#32
  | .sysReset => 0x01000000#32
  | .bchBuild => 0x10000000#32
  | .bchEnc _ => 0x11000000#32
  | .ldpcBuild => 0x20000000#32
  | .ldpcEnc _ => 0x21000000#32
  | .bilBuild => 0x30000000#32
  | .bilPerm _ => 0x31000000#32
  | .fmBuild => 0x40000000#32
  | .fmL1b => 0x41000000#32
  | .fmL1d => 0x42000000#32
  | .fmMap _ => 0x43000000#32
  | .fiBuild => 0x50000000#32
  | .fiSym _ => 0x51000000#32
  | .trBuild => 0x60000000#32
  | .trSym _ => 0x61000000#32

/-- The word of a command, masked as its row says, is the row's `match`. -/
def Statement (i : Instr) : Prop := encode i &&& rowMask i = rowMatch i

theorem masked_packWord (unit op n : Nat) : packWord unit op n &&& 0xFFFF0000#32 = packWord unit op 0 := by
  have hm : (0xFFFF0000#32) = BitVec.allOnes 4 ++ BitVec.allOnes 4 ++ BitVec.allOnes 8 ++ 0#16 := by decide
  rw [hm, packWord, packWord, BitVec.and_append, BitVec.and_append, BitVec.and_append]
  simp only [BitVec.and_allOnes, BitVec.and_zero]

theorem sysNop : Statement .sysNop := by unfold Statement; decide
theorem sysReset : Statement .sysReset := by unfold Statement; decide
theorem bchBuild : Statement .bchBuild := by unfold Statement; decide
theorem bchEnc (n : Nat) : Statement (.bchEnc n) := (masked_packWord 1 1 n).trans (show packWord 1 1 0 = 0x11000000#32 by decide)
theorem ldpcBuild : Statement .ldpcBuild := by unfold Statement; decide
theorem ldpcEnc (n : Nat) : Statement (.ldpcEnc n) := (masked_packWord 2 1 n).trans (show packWord 2 1 0 = 0x21000000#32 by decide)
theorem bilBuild : Statement .bilBuild := by unfold Statement; decide
theorem bilPerm (n : Nat) : Statement (.bilPerm n) := (masked_packWord 3 1 n).trans (show packWord 3 1 0 = 0x31000000#32 by decide)
theorem fmBuild : Statement .fmBuild := by unfold Statement; decide
theorem fmL1b : Statement .fmL1b := by unfold Statement; decide
theorem fmL1d : Statement .fmL1d := by unfold Statement; decide
theorem fmMap (n : Nat) : Statement (.fmMap n) := (masked_packWord 4 3 n).trans (show packWord 4 3 0 = 0x43000000#32 by decide)
theorem fiBuild : Statement .fiBuild := by unfold Statement; decide
theorem fiSym (n : Nat) : Statement (.fiSym n) := (masked_packWord 5 1 n).trans (show packWord 5 1 0 = 0x51000000#32 by decide)
theorem trBuild : Statement .trBuild := by unfold Statement; decide
theorem trSym (n : Nat) : Statement (.trSym n) := (masked_packWord 6 1 n).trans (show packWord 6 1 0 = 0x61000000#32 by decide)

end Sys2Proof.Laws.MatchesRow
end

