-- ==== Sys2Proof/Laws/Step.lean ====
section
/-! SUPPORT. Everything a step can do, and the equations of a step by the kind of the host's next action. -/

namespace Sys2Proof.Machine

/-- The cases of a step: the run is over, a command is executed, an illegal word is recorded, or an action that issues
no command is performed. -/
theorem step_cases {s t : State} (h : step s = .next t) :
    (s.host.script = [] ∧ t = s) ∨
      ∃ a rest, s.host.script = a :: rest ∧
        ((∃ w i, commandWord a = some w ∧ decode w = .ok i ∧ exec i (s.withScript rest) = .next t) ∨
          (∃ w e, commandWord a = some w ∧ decode w = .error e ∧ t = illegalCommand w (s.withScript rest)) ∨
          (commandWord a = none ∧ t = perform a (s.withScript rest))) := by
  unfold step at h
  split at h
  · next hs => exact .inl ⟨hs, by injection h with h; exact h.symm⟩
  · next a rest hs =>
    refine .inr ⟨a, rest, hs, ?_⟩
    split at h
    · next w hw =>
      unfold issue at h
      split at h
      · next i hi => exact .inl ⟨w, i, hw, hi, h⟩
      · next e he =>
        injection h with h
        exact .inr (.inl ⟨w, e, hw, he, h.symm⟩)
    · next hn =>
      injection h with h
      exact .inr (.inr ⟨hn, h.symm⟩)

theorem commandWord_eq_some {a : HostAction} {w : Word} : commandWord a = some w ↔ a = .regWrite 0#8 w := by
  cases a <;> simp [commandWord]

theorem withFetchWord_script (s : State) (nbits w : Nat) :
    (s.withFetchWord nbits w).host.script = .regWrite 0#8 (tableWord nbits w) :: s.host.script := rfl

end Sys2Proof.Machine
end

