-- ==== Sys2Proof/Laws/Stream.lean ====
section
/-! SUPPORT. The symbol counters of units 5 and 6 over many firings (10_state.md R47), and the peak of the reference of
46_papr_tr.md R249. -/

namespace Sys2Proof.Machine

open Sys2Proof.Config

/-- The counter after one firing, for an index inside a frame of a sane length. -/
theorem nextSymidx_toNat {geo : Geometry} {idx : Word} (h : idx.toNat < geo.symbols) (h2 : geo.symbols ≤ 2 ^ 16) :
    (nextSymidx geo.symbols idx).toNat = (idx.toNat + 1) % geo.symbols := by
  unfold nextSymidx
  split
  · next e => rw [e, Nat.mod_self]; rfl
  · rw [BitVec.toNat_add, show (1#32).toNat = 1 from rfl, Nat.mod_eq_of_lt (by omega), Nat.mod_eq_of_lt (by omega)]

theorem nextSymidx_lt {geo : Geometry} {idx : Word} (h : idx.toNat < geo.symbols) (h2 : geo.symbols ≤ 2 ^ 16) :
    (nextSymidx geo.symbols idx).toNat < geo.symbols := by
  rw [nextSymidx_toNat h h2]
  exact Nat.mod_lt _ (by omega)

theorem symbolAt_nextSymidx {geo : Geometry} {idx : Word} (h : idx.toNat < geo.symbols) (h2 : geo.symbols ≤ 2 ^ 16)
    (k : Nat) : symbolAt geo (nextSymidx geo.symbols idx) k = symbolAt geo idx (k + 1) := by
  unfold symbolAt
  rw [nextSymidx_toNat h h2, Nat.mod_add_mod]
  congr 1
  omega

/-- The recursion that `FI.SYM` checks its queue against is the sum of 45_freq_interleaver.md R220. -/
theorem fiNeed_eq_cellsBefore {geo : Geometry} (n : Nat) {idx : Word} (h : idx.toNat < geo.symbols)
    (h2 : geo.symbols ≤ 2 ^ 16) : fiNeed geo n idx = cellsBefore geo idx n := by
  induction n generalizing idx with
  | zero => rfl
  | succ n ih =>
    rw [fiNeed, ih (nextSymidx_lt h h2), cellsBefore, cellsBefore, List.range_succ_eq_map, List.map_cons, List.sum_cons,
      List.map_map]
    congr 1
    · simp [symbolAt, Nat.mod_eq_of_lt h]
    · congr 1
      refine List.map_congr_left fun j _ => ?_
      simp only [Function.comp]
      rw [symbolAt_nextSymidx h h2]

theorem symbols_le_of_geomConfigOk {t : Tables} {p : Params} {g : GeomRegs} {k : GeomKey} {geo : Geometry}
    (h : GeomConfigOk t p g k geo) : geo.symbols ≤ 2 ^ 16 := by
  rw [h.wf.symbols]
  have := k.numPreambleSyms.isLt
  have := k.numPayloadSyms.isLt
  omega

theorem fi_symbols_le {s : State} (h : BuiltValid s) (hb : s.isBuilt .fi = true) : s.fi.der.geom.symbols ≤ 2 ^ 16 := by
  obtain ⟨k, geo, nr, hg, -, -, hd⟩ := (fiDerive_eq_some_iff ..).1 (h.fi hb)
  rw [hd]
  exact symbols_le_of_geomConfigOk hg

theorem tr_symbols_le {s : State} (h : BuiltValid s) (hb : s.isBuilt .tr = true) : s.tr.der.geom.symbols ≤ 2 ^ 16 := by
  obtain ⟨k, geo, hg, -, hd⟩ := (trDerive_eq_some_iff ..).1 (h.tr hb)
  rw [hd]
  exact symbols_le_of_geomConfigOk hg

/-- The peak index is in range and is the least at which the sequence is greatest. -/
theorem trPeakIndex_spec (mag : Nat → ℝ) (n : Nat) :
    (∀ i, i < n → mag i ≤ mag (trPeakIndex mag n)) ∧ (∀ i, i < trPeakIndex mag n → mag i < mag (trPeakIndex mag n)) ∧
      (0 < n → trPeakIndex mag n < n) := by
  induction n with
  | zero => simp [trPeakIndex]
  | succ n ih =>
    obtain ⟨h1, h2, h3⟩ := ih
    unfold trPeakIndex
    split
    · next hlt =>
      refine ⟨fun i hi => ?_, fun i hi => lt_of_le_of_lt (h1 i hi) hlt, fun _ => Nat.lt_succ_self n⟩
      rcases Nat.lt_succ_iff_lt_or_eq.1 hi with hi | rfl
      · exact ((h1 i hi).trans_lt hlt).le
      · exact le_rfl
    · next hge =>
      rw [not_lt] at hge
      refine ⟨fun i hi => ?_, h2, fun _ => ?_⟩
      · rcases Nat.lt_succ_iff_lt_or_eq.1 hi with hi | rfl
        · exact h1 i hi
        · exact hge
      · rcases Nat.eq_zero_or_pos n with rfl | hn
        · exact Nat.lt_succ_self 0
        · exact (h3 hn).trans (Nat.lt_succ_self n)

end Sys2Proof.Machine
end

