-- ==== Sys2Proof/Tests/Slice0.lean ====
section
/-! SUPPORT. Tests: decoding of words written out from 30_encoding.md R93, the well-formedness smoke test, small tests of the
commands with values from 95_test_vectors.md and the rules' examples, and for every statement with hypotheses a concrete
state that meets them. -/

namespace Sys2Proof.Tests

open Sys2Proof Sys2Proof.Machine Sys2Proof.Config

/-! One theorem at a time, for the memory the check allows. -/

set_option Elab.async false

/-! ## Decoding: `unit` in bits 31:28, `op` in 27:24, zeros, `n` in 15:0 -/

theorem test_decode_sysNop : decode 0x00000000#32 = .ok .sysNop := by decide
theorem test_decode_sysReset : decode 0x01000000#32 = .ok .sysReset := by decide
theorem test_decode_bchBuild : decode 0x10000000#32 = .ok .bchBuild := by decide
theorem test_decode_bchEnc : decode 0x11000003#32 = .ok (.bchEnc 3) := by decide
theorem test_decode_ldpcBuild : decode 0x20000000#32 = .ok .ldpcBuild := by decide
theorem test_decode_ldpcEnc : decode 0x2100FFFF#32 = .ok (.ldpcEnc 65535) := by decide
theorem test_decode_bilBuild : decode 0x30000000#32 = .ok .bilBuild := by decide
theorem test_decode_bilPerm : decode 0x31008001#32 = .ok (.bilPerm 32769) := by decide
theorem test_decode_fmBuild : decode 0x40000000#32 = .ok .fmBuild := by decide
theorem test_decode_fmL1b : decode 0x41000000#32 = .ok .fmL1b := by decide
theorem test_decode_fmL1d : decode 0x42000000#32 = .ok .fmL1d := by decide
theorem test_decode_fmMap : decode 0x43000100#32 = .ok (.fmMap 256) := by decide
theorem test_decode_fiBuild : decode 0x50000000#32 = .ok .fiBuild := by decide
theorem test_decode_fiSym : decode 0x51000000#32 = .ok (.fiSym 0) := by decide
theorem test_decode_trBuild : decode 0x60000000#32 = .ok .trBuild := by decide
theorem test_decode_trSym : decode 0x61000007#32 = .ok (.trSym 7) := by decide

/-- One word of each class of 30_encoding.md R95, at the boundary of its range, encodes no command. -/
theorem test_decode_refuses :
    decode 0x70000000#32 = .error .noSuchUnit ∧ decode 0xF0000000#32 = .error .noSuchUnit ∧
      decode 0x02000000#32 = .error .noSuchOp ∧ decode 0x12000000#32 = .error .noSuchOp ∧
      decode 0x44000000#32 = .error .noSuchOp ∧ decode 0x6F000000#32 = .error .noSuchOp ∧
      decode 0x11010001#32 = .error .nonZeroZeroField ∧ decode 0x11800001#32 = .error .nonZeroZeroField ∧
      decode 0x10000001#32 = .error .nonZeroCount ∧ decode 0x42008000#32 = .error .nonZeroCount := by decide

/-- The table's numbering: bit 0 of the row is bit 0 of the word (spec/opcode_table.json). -/
theorem test_decodeTableWord : decodeTableWord 32 0x43000001 = some (.fmMap 1) := by decide

/-! ## Well-formedness: a count of 65536 does not fit the field -/

theorem test_wellFormed_refuses_bchEnc : (Instr.bchEnc 65536).wellFormed = false := by decide
theorem test_wellFormed_refuses_ldpcEnc : (Instr.ldpcEnc 65536).wellFormed = false := by decide
theorem test_wellFormed_refuses_bilPerm : (Instr.bilPerm 65536).wellFormed = false := by decide
theorem test_wellFormed_refuses_fmMap : (Instr.fmMap 65536).wellFormed = false := by decide
theorem test_wellFormed_refuses_fiSym : (Instr.fiSym 65536).wellFormed = false := by decide
theorem test_wellFormed_refuses_trSym : (Instr.trSym 65536).wellFormed = false := by decide

/-! ## A small table ROM and a state with every unit built -/

/-- The geometry of 95_test_vectors.md V43. -/
def geo : Geometry := ⟨3, [7, 12, 10], [.preamble, .data, .sbs], 29, 7, 10, 10, 12, [6, 6, 6]⟩

/-- The same with two preamble symbols. -/
def geo2 : Geometry := ⟨4, [7, 10, 12, 10], [.preamble, .preamble, .data, .sbs], 39, 7, 10, 10, 12, [6, 6, 6, 6]⟩

/-- The key of the first. -/
def key : GeomKey := ⟨.k8, 0, 0, 0#3, 1#4, 2#11, 0#1, 0#3⟩

/-- A small table ROM: the factors of 93_implementation_defined.md U1, the generator of 45_freq_interleaver.md R217, the tones
of 46_papr_tr.md R246. -/
def smallRom : Tables where
  frameBits := ⟨364, 724⟩
  bchFactors :=
    ⟨#v[0x402B, 0x4941, 0x4647, 0x5591, 0x6B55, 0x6389, 0x6CE5, 0x4F21, 0x460F, 0x5A49, 0x5811, 0x65EF],
      #v[0x1002D, 0x10173, 0x10FBD, 0x15A55, 0x11F2F, 0x1F7B5, 0x1AF65, 0x17367, 0x10EA1, 0x175A7, 0x13A2D, 0x11AE3]⟩
  ldpcRows := [((.short, .c2_15), [[0, 3]])]
  bilPerm := [((.short, .c2_15, .qpsk), (List.range 364).reverse)]
  geom := [(key, geo), ({ key with fft := .k32 }, geo), ({ key with numPreambleSyms := 2#4 }, geo2)]
  fiLogic := ⟨[0, 1], [0, 1], [0, 1]⟩
  fiBitpermEven := ⟨[0, 1, 2], [0, 1, 2], [0, 1, 2]⟩
  fiBitpermOdd := ⟨[2, 0, 1], [2, 0, 1], [2, 0, 1]⟩
  fiStep := ⟨⟨.lfsr, .lfsr⟩, ⟨.lfsr, .lfsr⟩, ⟨.lfsr, .lfsr⟩⟩
  fiSymoff := ⟨[0, 5], [0, 5], [0, 5]⟩
  trTones := ⟨[1, 2, 5], [1], [1]⟩
  pilotDx := [(0, 3)]
  pilotDy := [(0, 2)]
  fecParams := []

/-- The parameters, with 16 states. -/
def smallParams : Params := { Params.default with fiMaxStates := ⟨16, 16, 16⟩ }

def geomRegs : GeomRegs := ⟨0#2, 0#4, 0#5, 0#3, 1#4, 2#11, 0#1, 0#3⟩
def bchRegs : BchRegs := ⟨0#1, 8#16, 2#2⟩
def ldpcRegs : LdpcRegs := ⟨0#1, 0#4, 360#16, 1#1, 1#16, 0#16, 0#16, 0#16, 0#16⟩
def bilRegs : BilRegs := ⟨0#1, 0#4, 0#3⟩
def fmRegs : FmRegs := ⟨geomRegs, 0#2, 0#16, 2#19, 3#19⟩
def fiRegs : FiRegs := ⟨geomRegs, 1#1⟩
def trRegs : TrRegs := ⟨geomRegs, 1#2, 3#16, 0x3F99999A#32, 0#11⟩

/-- Reset with the small ROM. -/
def bare : State := { State.reset with tables := smallRom, params := smallParams }

/-- Every unit configured, none built. -/
def configured : State :=
  { bare with
    bch := { resetBch with regs := bchRegs }
    ldpc := { resetLdpc with regs := ldpcRegs }
    bil := { resetBil with regs := bilRegs }
    fm := { resetFm with regs := fmRegs }
    fi := { resetFi with regs := fiRegs }
    tr := { resetTr with regs := trRegs } }

def bchDer : BchDerived := (bchDerive smallRom smallParams bchRegs).getD resetBch.der
def ldpcDer : LdpcDerived := ⟨364, 360, 4, ldpcExpand (.typeB 1) 4 [[0, 3]]⟩
def bilDer : BilDerived := (bilDerive smallRom smallParams bilRegs).getD resetBil.der
def fmDer : FmDerived := (fmDerive smallRom smallParams fmRegs).getD resetFm.der
def fiDer : FiDerived := (fiDerive smallRom smallParams fiRegs).getD resetFi.der
def trDer : TrDerived := (trDerive smallRom smallParams trRegs).getD resetTr.der

/-- Every unit built, with given derived states, and every queue empty. -/
def builtWith (b : BchDerived) (l : LdpcDerived) (i : BilDerived) (m : FmDerived) (f : FiDerived) (t : TrDerived) : State :=
  { configured with
    status := 0x3F#32
    bch := { configured.bch with der := b }
    ldpc := { configured.ldpc with der := l }
    bil := { configured.bil with der := i }
    fm := { configured.fm with der := m }
    fi := { configured.fi with der := f }
    tr := { configured.tr with der := t } }

/-- Every unit built, every queue empty. -/
def built : State := builtWith bchDer ldpcDer bilDer fmDer fiDer trDer

theorem eq_some_getD {α : Type} {o : Option α} {d : α} (h : o.isSome = true) : o = some (o.getD d) := by
  cases o with
  | none => cases h
  | some a => rfl

theorem bchDer_eq : bchDerive smallRom smallParams bchRegs = some bchDer := eq_some_getD (by decide +kernel)

/-- The type B configuration of the small ROM. -/
theorem ldpcConfig_ok : LdpcConfigOk smallRom smallParams ldpcRegs [[0, 3]] where
  entry := ⟨.c2_15, by decide, by decide⟩
  nonzero := by decide
  groups := by decide
  room := by decide
  typeA := by decide
  typeB := by decide
  cover := by decide
  fit := by decide
  addresses := by decide

/-- A type A configuration of the small ROM. -/
def ldpcRegsA : LdpcRegs := ⟨0#1, 0#4, 360#16, 0#1, 0#16, 1#16, 1#16, 2#16, 2#16⟩

theorem ldpcConfigA_ok : LdpcConfigOk smallRom smallParams ldpcRegsA [[0, 3]] where
  entry := ⟨.c2_15, by decide, by decide⟩
  nonzero := by decide
  groups := by decide
  room := by decide
  typeA := by decide
  typeB := by decide
  cover := by decide
  fit := by decide
  addresses := by decide

theorem ldpc_order {u : LdpcRegs} (h : u.nbch.toNat = 360) : LdpcOrder smallRom smallParams u [[0, 3]] := by
  intro k _ i hi
  have := lt_of_mem_ldpcContributions hi
  simp only [List.length_cons, List.length_nil] at this
  omega

theorem ldpcDer_eq : ldpcDerive smallRom smallParams ldpcRegs = some ldpcDer :=
  (ldpcDerive_eq_some_iff ..).2 ⟨_, ldpcConfig_ok, ldpc_order rfl, rfl⟩

theorem bilDer_eq : bilDerive smallRom smallParams bilRegs = some bilDer := eq_some_getD (by decide +kernel)
theorem fmDer_eq : fmDerive smallRom smallParams fmRegs = some fmDer := eq_some_getD (by decide +kernel)
theorem fiDer_eq : fiDerive smallRom smallParams fiRegs = some fiDer := eq_some_getD (by decide +kernel)
theorem trDer_eq : trDerive smallRom smallParams trRegs = some trDer := eq_some_getD (by decide +kernel)

theorem builtWith_valid {b : BchDerived} {l : LdpcDerived} {i : BilDerived} {m : FmDerived} {f : FiDerived}
    {t : TrDerived} (hb : bchDerive smallRom smallParams bchRegs = some b) (hl : ldpcDerive smallRom smallParams ldpcRegs = some l)
    (hi : bilDerive smallRom smallParams bilRegs = some i) (hm : fmDerive smallRom smallParams fmRegs = some m)
    (hf : fiDerive smallRom smallParams fiRegs = some f) (ht : trDerive smallRom smallParams trRegs = some t) :
    BuiltValid (builtWith b l i m f t) :=
  ⟨fun _ => hb, fun _ => hl, fun _ => hi, fun _ => hm, fun _ => hf, fun _ => ht⟩

theorem built_valid : BuiltValid built := builtWith_valid bchDer_eq ldpcDer_eq bilDer_eq fmDer_eq fiDer_eq trDer_eq

/-- The items of a queue that holds a one and then zeros. -/
theorem bits_of_mem {x : Byte} {k m : Nat} (h : x ∈ (0x01#8 :: List.replicate k 0x00#8).take m) :
    x = 0x00#8 ∨ x = 0x01#8 :=
  (List.mem_cons.1 (List.mem_of_mem_take h)).elim .inr fun h => .inl (List.eq_of_mem_replicate h)

/-- The last item of a block. -/
theorem last_mem_take {x : Byte} {k m : Nat} (h : k + 1 ≤ m) : x ∈ (List.replicate k 0x00#8 ++ [x]).take m := by
  rw [List.take_of_length_le (by simpa using h)]
  simp

/-- A state with items for two firings of every command in its queues, but for units 5 and 6: one frame of four symbols. -/
def feed (s : State) : State :=
  { s with
    bch := { s.bch with inq := List.replicate 16 0x01#8 }
    ldpc := { s.ldpc with inq := 0x01#8 :: List.replicate 719 0x00#8 }
    bil := { s.bil with inq := 0x01#8 :: List.replicate 727 0x00#8 }
    fm :=
      { s.fm with
        l1bIn := List.replicate 4 ⟨1#32, 0#32⟩
        l1dIn := List.replicate 6 ⟨2#32, 0#32⟩
        plpIn := List.replicate 48 ⟨3#32, 0#32⟩ }
    fi := { s.fi with inq := (List.range 36).map (fun i => ⟨BitVec.ofNat 32 i, 0#32⟩) }
    tr := { s.tr with inq := (List.range 64).map (fun i => ⟨BitVec.ofNat 32 i, 0#32⟩) } }

theorem feed_valid {s : State} (h : BuiltValid s) : BuiltValid (feed s) :=
  ⟨h.bch, h.ldpc, h.bil, h.fm, h.fi, h.tr⟩

/-- Every unit built, items in every input queue. -/
def fed : State := feed built

theorem fed_valid : BuiltValid fed := feed_valid built_valid

theorem built_index : symbolIndexOk built := by
  constructor <;> intro _
  · show (0#32).toNat < fiDer.geom.symbols
    decide +kernel
  · show (0#32).toNat < trDer.geom.symbols
    decide +kernel

/-- What a state gives after a command, for the tests. -/
def after (i : Instr) (s : State) : State :=
  match exec i s with
  | .next t => t
  | .fault f => nomatch f
  | .refused _ => s

theorem exec_after (i : Instr) (s : State) : exec i s = .next (after i s) := by cases i <;> rfl

theorem feed_index {s : State} (h : symbolIndexOk s) : symbolIndexOk (feed s) := h

theorem fed_index : symbolIndexOk fed := feed_index built_index

/-! ## Small tests of the commands -/

/-- What a state gives after one host action. -/
def stepped (a : HostAction) (s : State) : State :=
  match step (s.withScript [a]) with
  | .next t => t
  | .fault f => nomatch f
  | .refused _ => s

/-- 40_system_commands.md R106, the example. -/
theorem test_write_drops_high_bits :
    regRead (stepped (.regWrite 0x11#8 0x12345#32) { bare with status := 0x3F#32 }) 0x11#8 = 0x2345#32 ∧
      (stepped (.regWrite 0x11#8 0x12345#32) { bare with status := 0x3F#32 }).status = 0x3E#32 := by decide

/-- 95_test_vectors.md P1, line 1. -/
theorem test_bchEnc_not_built :
    let t := stepped (.regWrite 0x00#8 0x11000001#32) bare
    t.status = 0x00001000#32 ∧ t.errinfo = 0x15#32 ∧ t.errval = 0x11000001#32 := by decide

/-- 40_system_commands.md R110, the example. -/
theorem test_sysReset_clears_error :
    (stepped (.regWrite 0x00#8 0x01000000#32) (stepped (.regWrite 0x00#8 0xFFFFFFFF#32) bare)).status = 0#32 := by decide

theorem test_sysNop : (after .sysNop built).status = 0x3F#32 := by decide

/-- 41_bch.md R124, the listed entries. -/
theorem test_crc_table :
    crcTable.getD 0x01 0 = 0x00210801#32 ∧ crcTable.getD 0x02 0 = 0x00421002#32 ∧
      crcTable.getD 0x80 0 = 0x10840080#32 ∧ crcTable.getD 0xFF 0 = 0x1F18F8FF#32 := by decide +kernel

/-- 41_bch.md R132, the example, and R135, eight zero bits. -/
theorem test_crc_examples :
    crc32Bits Params.default (bitString 8 0xA5) = 0xF4E72F5A#32 ∧
      crc32Bits Params.default (List.replicate 8 0x00#8) = 0xE0E707FF#32 := by decide +kernel

/-- 41_bch.md R121 (c): 12 is not a multiple of 8. -/
theorem test_bchBuild_refuses :
    (after .bchBuild { bare with bch := { resetBch with regs := ⟨0#1, 12#16, 2#2⟩ } }).errinfo = 0x11#32 := by decide +kernel

/-- 95_test_vectors.md P2, the parity of the 192-bit block. -/
theorem test_bch_parity :
    (bchParity bchDer (bitString 192 (0xA5 <<< 184 ||| 1))).toNat = 0x100B0FA948564759B444EB98F4B8A75F0E40C81F09 := by
  decide +kernel

/-- 42_ldpc.md R152, R153 by hand: `q` = 2 of 720, and the two regimes of `q1` = 3, `q2` = 5, `m1` = 400, `m2` = 320. -/
theorem test_ldpcBuild_targets :
    ldpcTarget (.typeB 2) 720 719 1 = 1 ∧ ldpcTarget (.typeB 2) 720 5 359 = 3 ∧
      ldpcTarget (.typeA 3 5 400 320) 720 399 1 = 2 ∧ ldpcTarget (.typeA 3 5 400 320) 720 719 1 = 404 := by decide

/-- 42_ldpc.md R156 by hand: an empty list gives 0, and a list may name a parity bit before it. -/
theorem test_ldpcEnc_codeword :
    ldpcCodeword [[0], [1], [], [0, 4], [0, 1, 4, 6]] [0x01#8, 0x00#8, 0x01#8, 0x01#8] =
      [0x01#8, 0x00#8, 0x01#8, 0x01#8, 0x01#8, 0x00#8, 0x00#8, 0x00#8, 0x00#8] := by decide

/-- 43_bit_interleaver.md R173, the example. -/
theorem test_bilPerm_example :
    gather 0x00#8 [0x01#8, 0x00#8, 0x00#8, 0x01#8] [2, 0, 3, 1] = [0x00#8, 0x01#8, 0x01#8, 0x00#8] := by decide

/-- 00_scope.md R16: the assignment is a parameter. With `SHORT` = 1 and `NORMAL` = 0 the same register names the other frame
size, and 43_bit_interleaver.md R170 takes that one's length. -/
theorem test_bilBuild_other_enums :
    (after .bilBuild
      { bare with
        params := { smallParams with enums := { Enums.default with frameSize := #v[.normal, .short] } }
        tables :=
          { smallRom with
            frameBits := ⟨2, 3⟩
            bilPerm := [((.short, .c2_15, .qpsk), [1, 0]), ((.normal, .c2_15, .qpsk), [2, 0, 1])] } }).bil.der =
      ⟨3, [2, 0, 1]⟩ := by decide +kernel

/-- 43_bit_interleaver.md R171 (c): a table with a value twice is refused. -/
theorem test_bilBuild_refuses :
    (after .bilBuild
      { bare with
        tables :=
          { smallRom with frameBits := ⟨2, 2⟩, bilPerm := [((.short, .c2_15, .qpsk), [0, 0])] } }).errinfo = 0x31#32 := by
  decide +kernel

/-- 44_frame_mapper.md R183: time interleaving is refused. -/
theorem test_fmBuild_refuses_ti :
    (after .fmBuild { configured with fm := { configured.fm with regs := { fmRegs with tiMode := 1#2 } } }).errinfo = 0x41#32 := by
  decide +kernel

/-- 95_test_vectors.md P3, line 11: the zero record. -/
theorem test_fmL1b_zero_record :
    packMsb (l1bBitsOf Params.default resetL1Basic) = 0xAE238B77 := by decide +kernel

/-- 95_test_vectors.md P3, line 11: record A of V31. -/
theorem test_fmL1b_record_a :
    packMsb (l1bBitsOf Params.default
      { resetL1Basic with
        llsFlag := 1#1, paprReduction := 1#2, frameLength := 50#10, timeOffset := 0xBEEF#16, additionalSamples := 0x55#7,
        preambleNumSymbols := 1#3, detailSizeBytes := 25#13, detailFecType := 3#3, detailTotalCells := 1000#19,
        firstSubFftSize := 2#2, firstSubGuardInterval := 5#4, firstSubNumOfdmSymbols := 71#11,
        firstSubScatteredPilotPattern := 4#5, firstSubScatteredPilotBoost := 1#3, firstSubSbsLast := 1#1,
        reservedHi := 0x1234#16, reservedLo := 0x56789ABC#32 }) =
      0x0841900000080032C007D020A11C85123456789ABC185B7FAF := by decide +kernel

/-- 95_test_vectors.md P3, line 12. -/
theorem test_fmL1d :
    let t := after .fmL1d { bare with status := 0x8#32 }
    t.status = 0x00002008#32 ∧ t.errinfo = 0x46#32 ∧ t.errval = 0x42000000#32 := by decide

/-- 44_frame_mapper.md R196: L1-Basic, L1-Detail, payload, for two and three signalling cells. -/
theorem test_fmMap_placement :
    (after (.fmMap 1) fed).fm.outq.map (fun c => c.re.toNat) = [1, 1, 2, 2, 2] ++ List.replicate 24 3 := by decide +kernel

/-- 45_freq_interleaver.md R217, the example. -/
theorem test_fiBuild_vectors :
    (fiDer.vectors.map FiVectors.hevenFP).head? = some [0, 1, 2, 6, 3, 4, 5] ∧
      (fiDer.vectors.map FiVectors.hoddFP).head? = some [0, 4, 1, 3, 5, 2, 6] := by decide +kernel

/-- 45_freq_interleaver.md R218, the example. -/
theorem test_inversePerm : inversePerm [0, 4, 1, 3, 5, 2, 6] = [0, 2, 5, 3, 1, 4, 6] := by decide

/-- 95_test_vectors.md P4, line 7: symbols 0 and 2. -/
theorem test_fiSym_order :
    ((after (.fiSym 3) fed).fi.outq.take 7).map (fun c => c.re.toNat) = [0, 1, 2, 6, 3, 4, 5] ∧
      ((after (.fiSym 3) fed).fi.outq.drop 19).map (fun c => c.re.toNat - 19) = [5, 4, 9, 7, 8, 3, 6, 1, 0, 2] := by
  decide +kernel

/-- 95_test_vectors.md V48: a clip target that is zero, a NaN, an infinity or negative is refused. -/
theorem test_trBuild_refuses_vclip :
    [0x00000000#32, 0x7FC00000#32, 0x7F800000#32, 0xBF800000#32].map (fun v =>
      (after .trBuild { configured with tr := { configured.tr with regs := { trRegs with vclip := v } } }).errinfo) =
      [0x61#32, 0x61#32, 0x61#32, 0x61#32] := by decide +kernel

/-- 46_papr_tr.md R242: symbol 0 passes through, and the counter advances. -/
theorem test_trSym_first_symbol :
    (after (.trSym 1) fed).tr.outq = fed.tr.inq.take 16 ∧ (after (.trSym 1) fed).tr.symidx = 1#32 := by decide +kernel

/-- 46_papr_tr.md R246, the example. -/
theorem test_toneSet :
    trToneSet 8 [1, 2, 5] 3 2 1 .data 2 = [4, 5, 0] ∧ trToneSet 8 [1, 2, 5] 3 2 1 .data 3 = [1, 2, 5] ∧
      trToneSet 8 [1, 2, 5] 3 2 1 .sbs 2 = [1, 2, 5] := by decide

/-! ## States that meet the statements' hypotheses, under the statements' names -/

theorem witness_StepRunsDecodedCommand :
    (bare.withScript [.regWrite 0x00#8 0x61000002#32]).host.script = .regWrite 0x00#8 0x61000002#32 :: [] ∧
      decode 0x61000002#32 = .ok (.trSym 2) := ⟨rfl, by decide⟩

/-- One word of each illegal class; each is the next command of a state. -/
theorem witness_IllegalWordIsRecorded :
    ∀ e ∈ [(0x70000000#32, DecodeError.noSuchUnit), (0x02000000#32, .noSuchOp), (0x62000000#32, .noSuchOp),
        (0x44000000#32, .noSuchOp), (0x11010000#32, .nonZeroZeroField), (0x10000001#32, .nonZeroCount)],
      decode e.1 = .error e.2 := by decide

theorem witness_IllegalWordIsRecorded_script (w : Word) :
    (bare.withScript [.regWrite 0x00#8 w]).host.script = .regWrite 0x00#8 w :: [] := rfl

/-- The same in the words of the statement. -/
theorem witness_IllegalWordIsRecorded_word (i : Instr) : decode 0x44000000#32 ≠ .ok i := by
  rw [show decode 0x44000000#32 = .error .noSuchOp by decide]
  exact fun h => nomatch h

theorem witness_DecodeInvertsEncode :
    (Instr.bchEnc 0).wellFormed = true ∧ (Instr.trSym 65535).wellFormed = true ∧ Instr.fmL1d.wellFormed = true := by decide

theorem witness_DecodedWordIsItsEncoding : decode 0x5100FFFF#32 = .ok (.fiSym 65535) := by decide

theorem witness_OpcodeMapIsExact :
    decode 0x1100FFFF#32 = .ok (.bchEnc 65535) ∧ decode 0x21000000#32 = .ok (.ldpcEnc 0) ∧
      decode 0x31000001#32 = .ok (.bilPerm 1) ∧ decode 0x43008000#32 = .ok (.fmMap 32768) ∧
      decode 0x51000002#32 = .ok (.fiSym 2) ∧ decode 0x61000003#32 = .ok (.trSym 3) := by decide

theorem witness_RegisterReads :
    (bare.withScript [.regRead 0xAD#8]).host.script = .regRead 0xAD#8 :: [] ∧
      ∀ i ∈ [0x04, 0x14, 0x2A, 0x34, 0x4D, 0x4F, 0x6F, 0x8B, 0xAE, 0xFF],
        ∀ r ∈ [(0x00, 4), (0x10, 4), (0x20, 10), (0x30, 4), (0x40, 13), (0x50, 31), (0x80, 11), (0xA0, 14)],
          ¬(r.1 ≤ (BitVec.ofNat 8 i).toNat ∧ (BitVec.ofNat 8 i).toNat < r.1 + r.2) := ⟨rfl, by decide⟩

/-- The first and last index of each range, and a record register, which no unit owns. -/
theorem witness_RegisterWriteStoresItsField :
    (∀ e ∈
        [(0x10, RwReg.bchFrameSize), (0x12, .bchFecMode), (0x20, .ldpcFrameSize), (0x28, .ldpcM2), (0x30, .bilFrameSize),
          (0x32, .bilMod), (0x40, .geom .fm .fftSize), (0x4B, .fmL1dCells), (0x50, .l1b .version),
          (0x6E, .l1b .reservedLo), (0x80, .geom .fi .fftSize), (0x88, .fiMode), (0xA0, .geom .tr .fftSize),
          (0xAB, .trShiftOffset)],
      regAt (BitVec.ofNat 8 e.1) = .rw e.2) ∧
    (bare.withScript [.regWrite 0x6E#8 0xFFFFFFFF#32]).host.script = .regWrite 0x6E#8 0xFFFFFFFF#32 :: [] ∧
    ownedBy .tr 0xAB#8 = true ∧ ownedBy .bch 0x10#8 = true ∧ ∀ u, ownedBy u 0x6E#8 = false := by
  refine ⟨by decide, rfl, by decide, by decide, fun u => by cases u <;> decide⟩

theorem witness_BadRegisterWriteIsRecorded :
    (∀ i ∈ [0x01#8, 0xAD#8, 0x04#8, 0x4D#8, 0x6F#8, 0xFF#8], isRwIndex i = false ∧ i ≠ 0x00#8) ∧
      (bare.withScript [.regWrite 0x04#8 1#32]).host.script = .regWrite 0x04#8 1#32 :: [] ∧
      (bare.withScript [.regRead 0xAD#8]).host.script = .regRead 0xAD#8 :: [] ∧
      0x04#8 ∉ [0x01#8, 0x02#8, 0x03#8, 0x13#8, 0x29#8, 0x33#8, 0x4C#8, 0x89#8, 0x8A#8, 0xAC#8, 0xAD#8] :=
  ⟨by decide, rfl, rfl, by decide⟩

theorem witness_QueuePortMovesItems :
    (bare.withScript [.pushBits .bil [0x01#8]]).host.script = .pushBits .bil [0x01#8] :: [] ∧
      (bare.withScript [.pushCells .tr [noCell]]).host.script = .pushCells .tr [noCell] :: [] ∧
      (fed.withScript [.popBits .fmL1b 0]).host.script = .popBits .fmL1b 0 :: [] ∧
      (fed.withScript [.popCells .fi 7]).host.script = .popCells .fi 7 :: [] := ⟨rfl, rfl, rfl, rfl⟩

theorem witness_UnbuiltUnitRaisesNotBuilt :
    ∀ e ∈ [(Instr.bchEnc 1, UnitId.bch), (.ldpcEnc 0, .ldpc), (.bilPerm 1, .bil), (.fmL1b, .fm), (.fmMap 1, .fm),
        (.fiSym 65535, .fi), (.trSym 1, .tr)], e.1.streams = some e.2 ∧ bare.isBuilt e.2 = false := by decide

/-- Every unit built and every queue empty: one firing is too much for each. -/
theorem witness_ShortQueueRaisesUnderrun :
    BuiltValid built ∧ symbolIndexOk built ∧ (∀ u, built.isBuilt u = true) ∧
      built.bch.inq.length < 1 * built.bch.der.kbch ∧ built.ldpc.inq.length < 1 * built.ldpc.der.nbch ∧
      built.bil.inq.length < 1 * built.bil.der.n ∧ built.fm.l1bIn.length < 1 * built.fm.der.l1bCells ∧
      built.fm.l1dIn.length < 1 * built.fm.der.l1dCells ∧ built.fm.plpIn.length < 1 * built.fm.der.plpCells ∧
      built.fi.inq.length < cellsBefore built.fi.der.geom built.fi.symidx 1 ∧
      built.tr.inq.length < 1 * built.tr.der.n :=
  ⟨built_valid, built_index, fun u => by cases u <;> rfl, by decide +kernel, by decide +kernel, by decide +kernel,
    by decide +kernel, by decide +kernel, by decide +kernel, by decide +kernel, by decide +kernel⟩

/-- Queues of one block each whose last item is no bit item. -/
def spoilt : State :=
  { built with
    bch := { built.bch with inq := List.replicate 7 0x00#8 ++ [0x02#8] }
    ldpc := { built.ldpc with inq := List.replicate 359 0x00#8 ++ [0x80#8] }
    bil := { built.bil with inq := List.replicate 363 0x00#8 ++ [0xFF#8] } }

theorem witness_BadItemIsRefused :
    (∀ u, spoilt.isBuilt u = true) ∧
      (1 * spoilt.bch.der.kbch ≤ spoilt.bch.inq.length ∧
        ∃ x ∈ spoilt.bch.inq.take (1 * spoilt.bch.der.kbch), x ≠ 0x00#8 ∧ x ≠ 0x01#8) ∧
      (1 * spoilt.ldpc.der.nbch ≤ spoilt.ldpc.inq.length ∧
        ∃ x ∈ spoilt.ldpc.inq.take (1 * spoilt.ldpc.der.nbch), x ≠ 0x00#8 ∧ x ≠ 0x01#8) ∧
      (1 * spoilt.bil.der.n ≤ spoilt.bil.inq.length ∧
        ∃ x ∈ spoilt.bil.inq.take (1 * spoilt.bil.der.n), x ≠ 0x00#8 ∧ x ≠ 0x01#8) :=
  ⟨fun u => by cases u <;> rfl, ⟨by decide +kernel, by decide +kernel⟩,
    ⟨by decide +kernel, 0x80#8, last_mem_take (by decide +kernel), by decide⟩,
    ⟨by decide +kernel, 0xFF#8, last_mem_take (by decide +kernel), by decide⟩⟩

/-- The configuration after reset is refused by every BUILD but BIL's, whose table here is empty. -/
theorem witness_BadConfigurationIsRefused :
    let s : State := { bare with tables := { smallRom with bilPerm := [] } }
    ¬ BchConfigOk s.tables s.params s.bch.regs ∧
      (¬ ∃ rows, LdpcConfigOk s.tables s.params s.ldpc.regs rows ∧ LdpcOrder s.tables s.params s.ldpc.regs rows) ∧
      (¬ ∃ perm, BilConfigOk s.tables s.params s.bil.regs perm) ∧
      (¬ ∃ k geo, GeomConfigOk s.tables s.params s.fm.regs.geom k geo ∧ FmCellsOk s.params s.fm.regs geo) ∧
      (¬ ∃ k geo nr, GeomConfigOk s.tables s.params s.fi.regs.geom k geo ∧
        FiGeneratorOk s.tables s.params k.fft geo.symbols nr ∧
        ∀ l, l < geo.symbols → FiVectorsPerm geo (fiPass s.tables k.fft geo nr l)) ∧
      ¬ ∃ k geo, GeomConfigOk s.tables s.params s.tr.regs.geom k geo ∧
        (paprModeOf s.params.enums s.tr.regs.paprMode = .tr → TrTonesOk s.tables s.params s.tr.regs k) := by
  refine ⟨fun h => h.nonzero rfl, fun ⟨_, h, _⟩ => h.nonzero rfl, fun ⟨_, h⟩ => ?_,
    fun ⟨_, _, h, _⟩ => absurd h.somePreamble (by decide), fun ⟨_, _, _, h, _⟩ => absurd h.somePreamble (by decide),
    fun ⟨_, _, h, _⟩ => absurd h.somePreamble (by decide)⟩
  obtain ⟨_, _, _, _, h⟩ := h.entry
  cases h

theorem witness_OnlyResetClearsErrors :
    let s : State := { bare with status := 0x200#32, errinfo := 0x02#32, errval := 0x70000000#32, host := ⟨[.regRead 0x01#8], []⟩ }
    step s = .next (stepped (.regRead 0x01#8) s) ∧ s.host.script.head? ≠ some (.regWrite 0x00#8 0x01000000#32) ∧
      s.hasError .illegalCommand = true ∧ s.errCode ≠ 0#4 := ⟨rfl, by decide, by decide, by decide⟩

/-- A state with an error recorded and a command to come. -/
def recorded : State :=
  { bare with status := 0x200#32, errinfo := 0x02#32, errval := 0x70000000#32, host := ⟨[.regWrite 0x00#8 0x42000000#32], []⟩ }

theorem witness_StepKeepsInvariant : Inv recorded ∧ step recorded = .next (stepped (.regWrite 0x00#8 0x42000000#32) recorded) := by
  refine ⟨⟨by unfold statusReservedZero; decide, ⟨by decide, by decide, fun h => absurd h (by decide), fun _ => ?_⟩, ?_, ?_, ?_⟩, rfl⟩
  · exact ⟨.illegalCommand, by decide, by decide⟩
  · constructor <;> intro h <;> exact absurd h (by decide)
  · constructor <;> intro h <;> exact absurd h (by decide)
  · intro q
    cases q <;> decide

theorem witness_CommandTouchesItsUnitOnly :
    (Instr.fmL1b).unit = some .fm ∧ exec .fmL1b fed = .next (after .fmL1b fed) := ⟨rfl, exec_after _ _⟩

/-- Two commands of different units that both complete. -/
theorem witness_CommandsOfDifferentUnitsCommute :
    (Instr.fiSym 1).unit = some .fi ∧ (Instr.fmMap 1).unit = some .fm ∧ UnitId.fi ≠ .fm ∧
      exec (.fiSym 1) fed = .next (after (.fiSym 1) fed) ∧ exec (.fmMap 1) fed = .next (after (.fmMap 1) fed) ∧
      (after (.fiSym 1) fed).errinfo = fed.errinfo ∧ (after (.fmMap 1) fed).errinfo = fed.errinfo :=
  ⟨rfl, rfl, by decide, exec_after _ _, exec_after _ _, by decide +kernel, by decide +kernel⟩

theorem witness_PowerOnState :
    Params.default.enums = Enums.default ∧
    let t : Tables := { smallRom with frameBits := ⟨3, 3⟩, bilPerm := [((.short, .c2_15, .qpsk), [2, 0, 1])] }
    t.bilPerm.lookup (.short, .c2_15, .qpsk) = some [2, 0, 1] ∧ List.Perm [2, 0, 1] (List.range t.frameBits.short) := by
  decide

theorem witness_PolynomialArithmetic : (0x13 : Nat) ≠ 0 ∧ pmod 0x1D3 0x13 < 2 ^ (0x13 : Nat).log2 := by decide +kernel

/-- Both frame sizes and the three modes. -/
theorem witness_BchBuildCompletes :
    ∀ e ∈ [(0#1, 0#2), (0#1, 1#2), (0#1, 2#2), (1#1, 2#2)],
      BchConfigOk smallRom smallParams { bchRegs with frameSize := e.1, fecMode := e.2 } := by
  intro e he
  exact (bchDerive_isSome_iff ..).1 ((by decide +kernel :
    ∀ e ∈ [(0#1, 0#2), (0#1, 1#2), (0#1, 2#2), (1#1, 2#2)],
      (bchDerive smallRom smallParams ⟨e.1, bchRegs.kbch, e.2⟩).isSome = true) e he)

theorem witness_BchTableByShifts : bchDerive smallRom smallParams bchRegs = some bchDer ∧ 0 < 256 ∧ 255 < 256 :=
  ⟨bchDer_eq, by decide, by decide⟩

theorem witness_BchEncCompletes :
    fed.isBuilt .bch = true ∧ 2 * fed.bch.der.kbch ≤ fed.bch.inq.length ∧
      ∀ x ∈ fed.bch.inq.take (2 * fed.bch.der.kbch), x = 0x00#8 ∨ x = 0x01#8 :=
  ⟨rfl, by decide +kernel, by decide +kernel⟩

theorem witness_BchSuffixByMode :
    (∀ e ∈ [0#2, 1#2, 2#2], ∃ d, bchDerive smallRom smallParams { bchRegs with fecMode := e } = some d) ∧
      fecModeOf smallParams.enums bchRegs.fecMode = some .bch ∧ (List.replicate 8 0x01#8).length = bchDer.kbch := by
  refine ⟨fun e he => Option.isSome_iff_exists.1 ?_, rfl, by decide +kernel⟩
  exact (by decide +kernel :
    ∀ e ∈ [0#2, 1#2, 2#2], (bchDerive smallRom smallParams { bchRegs with fecMode := e }).isSome = true) e he

theorem witness_CrcIsPolynomialRemainder : Params.default.crc32Xorout = 0#32 := rfl

/-- A type B and a type A configuration. -/
theorem witness_LdpcBuildCompletes :
    (∃ rows, LdpcConfigOk configured.tables configured.params configured.ldpc.regs rows ∧ LdpcOrder configured.tables configured.params configured.ldpc.regs rows) ∧
      ∃ rows, LdpcConfigOk smallRom smallParams ldpcRegsA rows ∧ LdpcOrder smallRom smallParams ldpcRegsA rows :=
  ⟨⟨_, ldpcConfig_ok, ldpc_order rfl⟩, _, ldpcConfigA_ok, ldpc_order rfl⟩

theorem witness_LdpcTypeBAlwaysOrdered : LdpcConfigOk smallRom smallParams ldpcRegs [[0, 3]] ∧ ldpcTypeOf smallParams.enums ldpcRegs.type = .typeB := ⟨ldpcConfig_ok, rfl⟩

theorem witness_LdpcEncCompletes :
    fed.isBuilt .ldpc = true ∧ 2 * fed.ldpc.der.nbch ≤ fed.ldpc.inq.length ∧
      ∀ x ∈ fed.ldpc.inq.take (2 * fed.ldpc.der.nbch), x = 0x00#8 ∨ x = 0x01#8 :=
  ⟨rfl, by decide +kernel, fun _ => bits_of_mem⟩

theorem witness_LdpcParityConsistency :
    ldpcDerive smallRom smallParams ldpcRegs = some ldpcDer ∧ (List.replicate 360 0x01#8).length = ldpcDer.nbch ∧ 3 < ldpcDer.p :=
  ⟨ldpcDer_eq, by decide +kernel, by decide +kernel⟩

theorem witness_LdpcCodewordIsLinear :
    [0x01#8, 0x00#8].length = [0x01#8, 0x01#8].length ∧ (∀ x ∈ [0x01#8, 0x00#8], x = 0x00#8 ∨ x = 0x01#8) ∧
      ∀ x ∈ [0x01#8, 0x01#8], x = 0x00#8 ∨ x = 0x01#8 := by decide

theorem witness_BilBuildCompletes : ∃ perm, BilConfigOk configured.tables configured.params configured.bil.regs perm := by
  obtain ⟨perm, h, -⟩ := (bilDerive_eq_some_iff ..).1 bilDer_eq
  exact ⟨perm, h⟩

theorem witness_BilPermCompletes :
    fed.isBuilt .bil = true ∧ 2 * fed.bil.der.n ≤ fed.bil.inq.length ∧
      ∀ x ∈ fed.bil.inq.take (2 * fed.bil.der.n), x = 0x00#8 ∨ x = 0x01#8 :=
  ⟨rfl, by decide +kernel, fun _ => bits_of_mem⟩

theorem witness_BilRearrangesTheBlock :
    bilDerive smallRom smallParams bilRegs = some bilDer ∧ (List.replicate 364 0x01#8).length = bilDer.n ∧ 363 < bilDer.n :=
  ⟨bilDer_eq, by decide +kernel, by decide +kernel⟩

theorem witness_FmBuildCompletes :
    ∃ k geo, GeomConfigOk configured.tables configured.params configured.fm.regs.geom k geo ∧
      FmCellsOk configured.params configured.fm.regs geo := by
  obtain ⟨k, geo, h, h2, -⟩ := (fmDerive_eq_some_iff ..).1 fmDer_eq
  exact ⟨k, geo, h, h2⟩

theorem witness_FmL1bCompletes : built.isBuilt .fm = true := rfl

theorem witness_L1bFieldsInTheirPlaces :
    frameLengthModeOf Enums.default resetL1Basic.frameLengthMode = .timeAligned ∧
      frameLengthModeOf Enums.default { resetL1Basic with frameLengthMode := 1#1 }.frameLengthMode = .symbolAligned :=
  ⟨rfl, rfl⟩

theorem witness_FmMapCompletes :
    fed.isBuilt .fm = true ∧ 2 * fed.fm.der.l1bCells ≤ fed.fm.l1bIn.length ∧
      2 * fed.fm.der.l1dCells ≤ fed.fm.l1dIn.length ∧ 2 * fed.fm.der.plpCells ≤ fed.fm.plpIn.length :=
  ⟨rfl, by decide +kernel, by decide +kernel, by decide +kernel⟩

theorem witness_FrameKeepsItsGeometry :
    fmDerive smallRom smallParams fmRegs = some fmDer ∧ (List.replicate 2 noCell).length = fmDer.l1bCells ∧
      (List.replicate 3 noCell).length = fmDer.l1dCells ∧ (List.replicate 24 noCell).length = fmDer.plpCells ∧
      2 < fmDer.geom.symbols :=
  ⟨fmDer_eq, by decide +kernel, by decide +kernel, by decide +kernel, by decide +kernel⟩

/-- Both modes, at 8K and at 32K. -/
theorem witness_FiBuildCompletes :
    ∀ e ∈ [(0#2, 0#1), (0#2, 1#1), (2#2, 1#1)],
      ∃ k geo nr, GeomConfigOk smallRom smallParams { geomRegs with fftSize := e.1 } k geo ∧
        FiGeneratorOk smallRom smallParams k.fft geo.symbols nr ∧
        ∀ l, l < geo.symbols → FiVectorsPerm geo (fiPass smallRom k.fft geo nr l) := by
  intro e he
  have h : ∀ e ∈ [(0#2, 0#1), (0#2, 1#1), (2#2, 1#1)],
      (fiDerive smallRom smallParams ⟨{ geomRegs with fftSize := e.1 }, e.2⟩).isSome = true := by decide +kernel
  obtain ⟨d, hd⟩ := Option.isSome_iff_exists.1 (h e he)
  obtain ⟨k, geo, nr, h, h2, h3, -⟩ := (fiDerive_eq_some_iff ..).1 hd
  exact ⟨k, geo, nr, h, h2, h3⟩

theorem witness_FiPassByItsSteps :
    2 ≤ 4 ∧ (smallRom.fiSymoff.get .k8).getD (2 / 2) 0 < 2 ^ 4 ∧ Fft.k8 ≠ .k32 ∧
      (smallRom.fiSymoff.get .k32).getD (2 / 2) 0 < 2 ^ 4 := by decide

theorem witness_BitpermIsABijection : List.Perm [2, 0, 1] (List.range 3) ∧ 2 < 3 := by decide

/-- The generator of 45_freq_interleaver.md R217 walks all seven non-zero values. -/
theorem witness_FullCycleGivesAPermutation :
    let next : BitVec 3 → BitVec 3 := fiStepOf .lfsr [0, 1]
    1 ≤ 3 ∧ List.Perm [2, 0, 1] (List.range 3) ∧ 15 < 2 ^ (3 + 1) ∧
      (∀ x : BitVec 3, x ≠ 0 → ∃ k, k < 2 ^ 3 - 1 ∧ next^[k] 1 = x) ∧ next^[2 ^ 3 - 1] 1 = 1 := by
  refine ⟨by decide, by decide, by decide, ?_, by decide +kernel⟩
  have h : ∀ x : BitVec 3, x ≠ 0 → ∃ k ∈ List.range 7, (fiStepOf .lfsr [0, 1])^[k] 1 = x := by decide +kernel
  intro x hx
  obtain ⟨k, hk, he⟩ := h x hx
  exact ⟨k, List.mem_range.1 hk, he⟩

/-- Unit 5 built for a frame of four symbols, two of them preamble symbols, with given registers and derived state. -/
def fiBuilt (u : FiRegs) (d : FiDerived) : State :=
  { bare with status := 0x10#32, fi := { resetFi with regs := u, der := d } }

theorem fiBuilt_isBuilt (u : FiRegs) (d : FiDerived) (v : UnitId) : (fiBuilt u d).isBuilt v = decide (v = .fi) := by
  show (0x10#32).getLsbD v.builtBit = decide (v = .fi)
  cases v <;> decide

theorem fiBuilt_valid {u : FiRegs} {d : FiDerived} (h : fiDerive smallRom smallParams u = some d) : BuiltValid (fiBuilt u d) where
  bch := fun hb => nomatch (fiBuilt_isBuilt u d _).symm.trans hb
  ldpc := fun hb => nomatch (fiBuilt_isBuilt u d _).symm.trans hb
  bil := fun hb => nomatch (fiBuilt_isBuilt u d _).symm.trans hb
  fm := fun hb => nomatch (fiBuilt_isBuilt u d _).symm.trans hb
  fi := fun _ => h
  tr := fun hb => nomatch (fiBuilt_isBuilt u d _).symm.trans hb

/-- At 8K and at 32K. -/
theorem witness_BuiltTablesArePermutations :
    ∀ e ∈ [(0#2, Fft.k8), (2#2, .k32)],
      ∃ s : State, BuiltValid s ∧ s.isBuilt .fi = true ∧ s.fi.der.fft = e.2 ∧ s.fi.der.vectors ≠ [] := by
  intro e he
  have h : ∀ e ∈ [(0#2, Fft.k8), (2#2, .k32)],
      (match fiDerive smallRom smallParams ⟨{ geomRegs with fftSize := e.1 }, 1#1⟩ with
        | some d => decide (d.fft = e.2) && !d.vectors.isEmpty
        | none => false) = true := by decide +kernel
  have h := h e he
  split at h
  · next d hd =>
    simp only [Bool.and_eq_true, decide_eq_true_eq, Bool.not_eq_true', List.isEmpty_eq_false_iff] at h
    exact ⟨fiBuilt _ d, fiBuilt_valid hd, fiBuilt_isBuilt _ d _, h.1, h.2⟩
  · cases h

theorem witness_FiSymCompletes :
    BuiltValid fed ∧ symbolIndexOk fed ∧ fed.isBuilt .fi = true ∧
      cellsBefore fed.fi.der.geom fed.fi.symidx 4 ≤ fed.fi.inq.length :=
  ⟨fed_valid, fed_index, rfl, by decide +kernel⟩

/-- Each regime in both modes: the first preamble symbol, another one, a data symbol and an SBS symbol. -/
theorem witness_FiSymbolThroughItsTable :
    ∀ e ∈ [(0#1, FiMode.preambleOnly), (1#1, .allSymbols)],
      ∃ s : State, BuiltValid s ∧ s.isBuilt .fi = true ∧ s.fi.der.mode = e.2 ∧
        s.fi.der.geom.symType = [.preamble, .preamble, .data, .sbs] ∧ s.fi.der.vectors.length = 4 ∧
        ∀ l, (List.replicate (s.fi.der.geom.frameCells.getD l 0) noCell).length = s.fi.der.geom.frameCells.getD l 0 := by
  intro e he
  have h : ∀ e ∈ [(0#1, FiMode.preambleOnly), (1#1, .allSymbols)],
      (match fiDerive smallRom smallParams ⟨{ geomRegs with numPreambleSyms := 2#4 }, e.1⟩ with
        | some d =>
          decide (d.mode = e.2) && decide (d.geom.symType = [.preamble, .preamble, .data, .sbs]) &&
            decide (d.vectors.length = 4)
        | none => false) = true := by decide +kernel
  have h := h e he
  split at h
  · next d hd =>
    simp only [Bool.and_eq_true, decide_eq_true_eq] at h
    exact ⟨fiBuilt _ d, fiBuilt_valid hd, fiBuilt_isBuilt _ d _, h.1.1, h.1.2, h.2, fun l => List.length_replicate⟩
  · cases h

/-- The four modes. -/
theorem witness_TrBuildCompletes :
    ∀ m ∈ [0#2, 1#2, 2#2, 3#2],
      ∃ k geo, GeomConfigOk smallRom smallParams { trRegs with paprMode := m }.geom k geo ∧
        (paprModeOf smallParams.enums m = .tr → TrTonesOk smallRom smallParams { trRegs with paprMode := m } k) := by
  intro m hm
  have h : ∀ m ∈ [0#2, 1#2, 2#2, 3#2],
      (trDerive smallRom smallParams { trRegs with paprMode := m }).isSome = true := by decide +kernel
  obtain ⟨d, hd⟩ := Option.isSome_iff_exists.1 (h m hm)
  obtain ⟨k, geo, h, h2, -⟩ := (trDerive_eq_some_iff ..).1 hd
  exact ⟨k, geo, h, h2⟩

theorem witness_TrSymCompletes :
    BuiltValid fed ∧ symbolIndexOk fed ∧ fed.isBuilt .tr = true ∧ 4 * fed.tr.der.n ≤ fed.tr.inq.length ∧
      trReduces fed.tr 0 = false ∧ trReduces fed.tr 1 = true :=
  ⟨fed_valid, fed_index, rfl, by decide +kernel, by decide +kernel, by decide +kernel⟩

/-- Unit 6 built in a mode other than `PAPR_TR`. -/
def trBuilt (u : TrRegs) (d : TrDerived) : State :=
  feed { bare with status := 0x20#32, tr := { resetTr with regs := u, der := d } }

theorem trBuilt_isBuilt (u : TrRegs) (d : TrDerived) (v : UnitId) : (trBuilt u d).isBuilt v = decide (v = .tr) := by
  show (0x20#32).getLsbD v.builtBit = decide (v = .tr)
  cases v <;> decide

theorem trBuilt_valid {u : TrRegs} {d : TrDerived} (h : trDerive smallRom smallParams u = some d) : BuiltValid (trBuilt u d) where
  bch := fun hb => nomatch (trBuilt_isBuilt u d _).symm.trans hb
  ldpc := fun hb => nomatch (trBuilt_isBuilt u d _).symm.trans hb
  bil := fun hb => nomatch (trBuilt_isBuilt u d _).symm.trans hb
  fm := fun hb => nomatch (trBuilt_isBuilt u d _).symm.trans hb
  fi := fun hb => nomatch (trBuilt_isBuilt u d _).symm.trans hb
  tr := fun _ => h

theorem witness_TrOtherModesPassThrough :
    ∀ m ∈ [0#2, 2#2, 3#2],
      ∃ s : State, BuiltValid s ∧ symbolIndexOk s ∧ s.isBuilt .tr = true ∧ s.tr.der.mode ≠ .tr ∧
        4 * s.tr.der.n ≤ s.tr.inq.length := by
  intro m hm
  have h : ∀ m ∈ [0#2, 2#2, 3#2],
      (match trDerive smallRom smallParams { trRegs with paprMode := m } with
        | some d => decide (d.mode ≠ .tr) && decide (0 < d.geom.symbols) && decide (4 * d.n ≤ 64)
        | none => false) = true := by decide +kernel
  have h := h m hm
  split at h
  · next d hd =>
    simp only [Bool.and_eq_true, decide_eq_true_eq] at h
    exact ⟨trBuilt _ d, trBuilt_valid hd, ⟨fun hb => (nomatch (trBuilt_isBuilt _ d _).symm.trans hb), fun _ => h.1.2⟩,
      trBuilt_isBuilt _ d _, h.1.1, h.2⟩
  · cases h

/-- A symbol of sixteen samples, the first 4.0 and the others 0. -/
def loud : List Cell := ⟨0x40800000#32, 0#32⟩ :: List.replicate 15 ⟨0#32, 0#32⟩

/-- A symbol of zeros. -/
def silent : List Cell := List.replicate 16 ⟨0#32, 0#32⟩

/-- The derived state with a budget of iterations, for the two clauses. -/
theorem witness_TrReductionFollowsTheReference :
    trDerive smallRom smallParams trRegs = some trDer ∧ paprModeOf smallParams.enums trRegs.paprMode = .tr ∧ loud.length = trDer.n ∧
      silent.length = trDer.n ∧ (∀ c ∈ loud, (cellUnits c).isSome = true) ∧ (∀ c ∈ silent, (cellUnits c).isSome = true) ∧
      trDer.numIter ≠ 0 ∧ trExitsAtOnce true (trDer.vClip.getD 0) silent = true ∧
      trExitsAtOnce true (trDer.vClip.getD 0) loud = false :=
  ⟨trDer_eq, rfl, by decide +kernel, by decide +kernel, by decide +kernel, by decide +kernel, by decide +kernel,
    by decide +kernel, by decide +kernel⟩

theorem witness_ToneSetIsACyclicShift :
    List.Nodup [1, 2, 5] ∧ (∀ k ∈ [1, 2, 5], k < 8) ∧ 1 ≤ 2 ∧ SymType.sbs ≠ .data := by decide

theorem witness_KernelIsAMeanOfUnitVectors : [1, 2, 5] ≠ ([] : List Nat) := by decide

/-- One sample of magnitude 2 with the clip target 1. -/
noncomputable def onePeak : TrProblem where
  n := 1
  tones := [0]
  carriers := 1
  vClip := 1
  numIter := 1
  relaxed := true
  x := fun _ => 2

theorem witness_CorrectionHoldsOnlyReservedTones : 0 < onePeak.n := Nat.one_pos

theorem witness_ToneMagnitudeWithinAMax : 0 < onePeak.vClip ∧ 0 < onePeak.tones.length :=
  ⟨show (0 : ℝ) < 1 from one_pos, by decide⟩

theorem witness_PeakSampleDropsByTheStep :
    0 < onePeak.vClip ∧ 0 < onePeak.n ∧ onePeak.tones ≠ [] ∧
      (∀ a, a < onePeak.tones.length → ‖trStart.r a‖ ≤ trAMax onePeak.tones.length onePeak.carriers) ∧
      ¬ trExits onePeak (trMeasure onePeak trStart) := by
  refine ⟨one_pos, Nat.one_pos, by simp [onePeak], fun a _ => ?_, ?_⟩
  · simp only [trStart, Pi.zero_apply, norm_zero, trAMax]
    positivity
  · simp [trExits, trMeasure, trStart, onePeak, trThreshold, trExitMarginDen]
    norm_num

end Sys2Proof.Tests
end

section
/-! SUPPORT. Polynomials over GF(2) (00_scope.md R12): the coefficients of a product, its degree and additivity, and the
remainder of long division by the two facts that fix it. -/

namespace Sys2Proof.Machine

/-! ## The product -/

/-- The coefficients of a number from the bound of its degree on add nothing to its products. -/
theorem pmulLow_add {a n : Nat} (h : a < 2 ^ n) (b k : Nat) : pmulLow a b (n + k) = pmulLow a b n := by
  induction k with
  | zero => rfl
  | succ k ih =>
    have hbit : a.testBit (n + k) = false :=
      Nat.testBit_lt_two_pow (h.trans_le (Nat.pow_le_pow_right two_pos (n.le_add_right k)))
    rw [← Nat.add_assoc, pmulLow, ih, hbit]
    simp

/-- The product may be summed up to any bound of the degree. -/
theorem pmul_eq_pmulLow {a n : Nat} (h : a < 2 ^ n) (b : Nat) : pmul a b = pmulLow a b n := by
  rw [pmul, ← pmulLow_add Nat.lt_log2_self b n, Nat.add_comm, pmulLow_add h]

/-- The summands that start above coefficient `k` do not reach it. -/
theorem testBit_pmulLow_add (a b k m : Nat) : (pmulLow a b (k + 1 + m)).testBit k = (pmulLow a b (k + 1)).testBit k := by
  induction m with
  | zero => rfl
  | succ m ih =>
    have hbit : (b <<< (k + 1 + m)).testBit k = false := by
      rw [Nat.testBit_shiftLeft, decide_eq_false (by omega), Bool.false_and]
    rw [← Nat.add_assoc, pmulLow, Nat.testBit_xor, ih]
    split <;> simp [hbit]

/-- The coefficient of `x^k` after the first `n` summands, as long as all of them reach it. -/
theorem testBit_pmulLow_of_le (a b k n : Nat) (h : n ≤ k + 1) :
    (pmulLow a b n).testBit k =
      (List.range n).foldl (fun acc i => acc ^^ (a.testBit i && b.testBit (k - i))) false := by
  induction n with
  | zero => simp [pmulLow]
  | succ n ih =>
    have hbit : (b <<< n).testBit k = b.testBit (k - n) := by
      rw [Nat.testBit_shiftLeft, decide_eq_true (by omega), Bool.true_and]
    rw [pmulLow, Nat.testBit_xor, ih (by omega), List.range_succ, List.foldl_append, List.foldl_cons, List.foldl_nil]
    cases a.testBit n <;> simp [hbit]

/-- The coefficients of a product. -/
theorem testBit_pmul (a b k : Nat) :
    (pmul a b).testBit k =
      (List.range (k + 1)).foldl (fun acc i => acc ^^ (a.testBit i && b.testBit (k - i))) false := by
  have ha : a < 2 ^ (k + 1 + (a.log2 + 1)) :=
    Nat.lt_log2_self.trans_le (Nat.pow_le_pow_right two_pos (Nat.le_add_left ..))
  rw [pmul_eq_pmulLow ha, testBit_pmulLow_add, testBit_pmulLow_of_le _ _ _ _ le_rfl]

theorem pmulLow_xor_left (a a' b n : Nat) : pmulLow (a ^^^ a') b n = pmulLow a b n ^^^ pmulLow a' b n := by
  induction n with
  | zero => simp [pmulLow]
  | succ n ih =>
    simp only [pmulLow, ih, Nat.testBit_xor]
    cases a.testBit n <;> cases a'.testBit n <;> simp [Nat.xor_assoc, Nat.xor_comm, Nat.xor_left_comm]

/-- The product distributes over the sum on the left. -/
theorem pmul_xor_left (a a' b : Nat) : pmul (a ^^^ a') b = pmul a b ^^^ pmul a' b := by
  have ha : a < 2 ^ (a.log2 + 1 + (a'.log2 + 1)) :=
    Nat.lt_log2_self.trans_le (Nat.pow_le_pow_right two_pos (Nat.le_add_right ..))
  have ha' : a' < 2 ^ (a.log2 + 1 + (a'.log2 + 1)) :=
    Nat.lt_log2_self.trans_le (Nat.pow_le_pow_right two_pos (Nat.le_add_left ..))
  rw [pmul_eq_pmulLow (Nat.xor_lt_two_pow ha ha'), pmul_eq_pmulLow ha, pmul_eq_pmulLow ha', pmulLow_xor_left]

@[simp] theorem pmul_zero_left (b : Nat) : pmul 0 b = 0 := pmul_eq_pmulLow (n := 0) one_pos b

/-- The product by a power of `x` is a shift. -/
theorem pmul_two_pow (k b : Nat) : pmul (2 ^ k) b = b <<< k := by
  have hlow : ∀ n, n ≤ k → pmulLow (2 ^ k) b n = 0 := by
    intro n
    induction n with
    | zero => intro _; rfl
    | succ n ih =>
      intro h
      rw [pmulLow, ih (by omega), Nat.testBit_two_pow, decide_eq_false (by omega)]
      simp
  rw [pmul, Nat.log2_two_pow, pmulLow, hlow k le_rfl, Nat.testBit_two_pow_self]
  simp

/-- The degree of a sum of `n` summands of the product. -/
theorem pmulLow_lt_two_pow {b d : Nat} (a : Nat) (hb : b < 2 ^ (d + 1)) (n : Nat) : pmulLow a b n < 2 ^ (n + d) := by
  induction n with
  | zero => exact Nat.two_pow_pos _
  | succ n ih =>
    have hsum : pmulLow a b n < 2 ^ (n + 1 + d) := ih.trans (Nat.pow_lt_pow_right one_lt_two (by omega))
    have hshift : b <<< n < 2 ^ (n + 1 + d) := by
      have := Nat.shiftLeft_lt hb (m := n)
      rwa [show d + 1 + n = n + 1 + d by omega] at this
    rw [pmulLow]
    split
    · exact Nat.xor_lt_two_pow hsum hshift
    · simpa using hsum

/-- The degree of a product of non-zero polynomials is the sum of the degrees: that coefficient is 1. -/
theorem testBit_pmul_log2 {a b : Nat} (ha : a ≠ 0) (hb : b ≠ 0) : (pmul a b).testBit (a.log2 + b.log2) = true := by
  have hlow : (pmulLow a b a.log2).testBit (a.log2 + b.log2) = false :=
    Nat.testBit_lt_two_pow (pmulLow_lt_two_pow a Nat.lt_log2_self a.log2)
  have htop : (b <<< a.log2).testBit (a.log2 + b.log2) = true := by
    rw [Nat.testBit_shiftLeft, Nat.add_sub_cancel_left, Nat.testBit_log2 hb]
    simp
  rw [pmul, pmulLow, if_pos (Nat.testBit_log2 ha), Nat.testBit_xor, hlow, htop]
  rfl

/-- A multiple of `g` of a degree below that of `g` is 0. -/
theorem pmul_eq_zero_of_lt {q g : Nat} (hg : g ≠ 0) (h : pmul q g < 2 ^ g.log2) : pmul q g = 0 := by
  by_cases hq : q = 0
  · rw [hq, pmul_zero_left]
  · have hge := Nat.ge_two_pow_of_testBit (testBit_pmul_log2 hq hg)
    have hle : 2 ^ g.log2 ≤ 2 ^ (q.log2 + g.log2) := Nat.pow_le_pow_right two_pos (Nat.le_add_left ..)
    omega

/-! ## The remainder -/

/-- Two polynomials of degree at most `n` with the same coefficient of `x^n` have a sum of a lower degree. -/
theorem xor_lt_two_pow_of_testBit_eq {a b n : Nat} (ha : a < 2 ^ (n + 1)) (hb : b < 2 ^ (n + 1))
    (h : a.testBit n = b.testBit n) : a ^^^ b < 2 ^ n := by
  refine Nat.lt_pow_two_of_testBit _ fun i hi => ?_
  rcases hi.eq_or_lt with rfl | hlt
  · rw [Nat.testBit_xor, h, Bool.xor_self]
  · exact Nat.testBit_lt_two_pow ((Nat.xor_lt_two_pow ha hb).trans_le (Nat.pow_le_pow_right two_pos hlt))

/-- Long division: each step lowers the bound of the degree by one and subtracts a multiple of `g`. -/
theorem pmodSteps_spec {g : Nat} (hg : g ≠ 0) (k : Nat) {a : Nat} (ha : a < 2 ^ (g.log2 + k)) :
    pmodSteps g g.log2 k a < 2 ^ g.log2 ∧ ∃ q, a ^^^ pmodSteps g g.log2 k a = pmul q g := by
  induction k generalizing a with
  | zero => exact ⟨ha, 0, by simp [pmodSteps]⟩
  | succ k ih =>
    rw [pmodSteps]
    split
    · next hbit =>
      have hshift : g <<< k < 2 ^ (g.log2 + k + 1) := by
        have := Nat.shiftLeft_lt (Nat.lt_log2_self (n := g)) (m := k)
        rwa [Nat.add_right_comm] at this
      have htop : (g <<< k).testBit (g.log2 + k) = true := by
        rw [Nat.testBit_shiftLeft, Nat.add_sub_cancel, Nat.testBit_log2 hg]
        simp
      obtain ⟨hlt, q, hq⟩ := ih (xor_lt_two_pow_of_testBit_eq ha hshift (hbit.trans htop.symm))
      refine ⟨hlt, q ^^^ 2 ^ k, ?_⟩
      rw [pmul_xor_left, pmul_two_pow, ← hq]
      simp [Nat.xor_assoc, Nat.xor_comm, Nat.xor_left_comm]
    · next hbit =>
      refine ih (Nat.lt_pow_two_of_testBit _ fun i hi => ?_)
      rcases hi.eq_or_lt with rfl | hlt
      · simpa using hbit
      · exact Nat.testBit_lt_two_pow (ha.trans_le (Nat.pow_le_pow_right two_pos hlt))

theorem pmod_spec (a : Nat) {g : Nat} (hg : g ≠ 0) : pmod a g < 2 ^ g.log2 ∧ ∃ q, a ^^^ pmod a g = pmul q g :=
  pmodSteps_spec hg _ (Nat.lt_log2_self.trans_le (Nat.pow_le_pow_right two_pos (by omega)))

/-- The degree of the remainder. -/
theorem pmod_lt_two_pow (a : Nat) {g : Nat} (hg : g ≠ 0) : pmod a g < 2 ^ g.log2 := (pmod_spec a hg).1

/-- The remainder differs from its argument by a multiple of the divisor. -/
theorem exists_xor_pmod_eq_pmul (a : Nat) {g : Nat} (hg : g ≠ 0) : ∃ q, a ^^^ pmod a g = pmul q g := (pmod_spec a hg).2

/-- The remainder is the only polynomial of its degree that does. -/
theorem eq_pmod_of_xor_eq_pmul {a g t q : Nat} (hg : g ≠ 0) (ht : t < 2 ^ g.log2) (hq : a ^^^ t = pmul q g) :
    t = pmod a g := by
  obtain ⟨q', hq'⟩ := exists_xor_pmod_eq_pmul a hg
  have hdiff : t ^^^ pmod a g = pmul (q ^^^ q') g := by
    rw [pmul_xor_left, ← hq, ← hq']
    simp [Nat.xor_assoc, Nat.xor_left_comm]
  have hlt : pmul (q ^^^ q') g < 2 ^ g.log2 := hdiff ▸ Nat.xor_lt_two_pow ht (pmod_lt_two_pow a hg)
  exact Nat.xor_eq_zero_iff.1 (hdiff.trans (pmul_eq_zero_of_lt hg hlt))

/-- Settles O25: the coefficients of the product summand by summand, and the remainder by the invariant of long
division and the degree of a multiple of `g`. -/
theorem polynomialArithmetic : Obligations.PolynomialArithmetic := by
  unfold Obligations.PolynomialArithmetic
  exact ⟨testBit_pmul, fun a g hg =>
    ⟨pmod_lt_two_pow a hg, exists_xor_pmod_eq_pmul a hg, fun _ ht ⟨_, hq⟩ => eq_pmod_of_xor_eq_pmul hg ht hq⟩⟩

end Sys2Proof.Machine
end

section
/-! SUPPORT. The members the values of the enumerants' fields name (00_scope.md R16). -/

namespace Sys2Proof.Machine

open Sys2Proof.Config

/-- The fields with two values. -/
theorem enumsDefault_oneBitFields :
    (List.range 2).map (fun v => frameSizeOf Enums.default (BitVec.ofNat 1 v)) = [.short, .normal] ∧
    (List.range 2).map (fun v => ldpcTypeOf Enums.default (BitVec.ofNat 1 v)) = [.typeA, .typeB] ∧
    (List.range 2).map (fun v => fiModeOf Enums.default (BitVec.ofNat 1 v)) = [.preambleOnly, .allSymbols] ∧
    (List.range 2).map (fun v => frameLengthModeOf Enums.default (BitVec.ofNat 1 v)) =
      [.timeAligned, .symbolAligned] :=
  ⟨rfl, rfl, rfl, rfl⟩

/-- The fields with four values. -/
theorem enumsDefault_twoBitFields :
    (List.range 4).map (fun v => fecModeOf Enums.default (BitVec.ofNat 2 v)) =
      [some .none, some .crc32, some .bch, none] ∧
    (List.range 4).map (fun v => fftOf Enums.default (BitVec.ofNat 2 v)) = [some .k8, some .k16, some .k32, none] ∧
    (List.range 4).map (fun v => paprModeOf Enums.default (BitVec.ofNat 2 v)) = [.off, .tr, .ace, .both] ∧
    (List.range 4).map (fun v => tiModeOf Enums.default (BitVec.ofNat 2 v)) = [some .off, none, none, none] :=
  ⟨rfl, rfl, rfl, rfl⟩

theorem enumsDefault_codeRates :
    (List.range 16).map (fun v => codeRateOf Enums.default (BitVec.ofNat 4 v)) =
      [some .c2_15, some .c3_15, some .c4_15, some .c5_15, some .c6_15, some .c7_15, some .c8_15, some .c9_15,
        some .c10_15, some .c11_15, some .c12_15, some .c13_15, none, none, none, none] := rfl

theorem enumsDefault_modulations :
    (List.range 8).map (fun v => modulationOf Enums.default (BitVec.ofNat 3 v)) =
      [some .qpsk, some .qam16, some .qam64, some .qam256, some .qam1024, some .qam4096, none, none] := rfl

/-- A guard interval is named by its number. -/
theorem enumsDefault_guardInterval (b : BitVec 4) :
    (guardIntervalOf Enums.default b).map Fin.val = if b.toNat ≤ 11 then some b.toNat else none := by
  revert b; decide

/-- A pilot pattern is named by its number. -/
theorem enumsDefault_pilotPattern (b : BitVec 5) :
    (pilotPatternOf Enums.default b).map Fin.val = if b.toNat ≤ 15 then some b.toNat else none := by
  revert b; decide

/-- Settles O60: the default table value by value, and for any assignment that each field is in the range of its table. -/
theorem enumerantValues : Obligations.EnumerantValues := by
  unfold Obligations.EnumerantValues
  obtain ⟨hFrameSize, hLdpcType, hFiMode, hFrameLengthMode⟩ := enumsDefault_oneBitFields
  obtain ⟨hFecMode, hFft, hPaprMode, hTiMode⟩ := enumsDefault_twoBitFields
  refine ⟨⟨hFrameSize, enumsDefault_codeRates, hLdpcType, hFecMode, hFft, enumsDefault_guardInterval,
    enumsDefault_pilotPattern, enumsDefault_modulations, hPaprMode, hFiMode, hFrameLengthMode, rfl, hTiMode⟩, fun e => ?_⟩
  refine ⟨?_, ?_, ?_, ?_, ?_, ?_, ?_, ?_, ?_, ?_, ?_, ?_⟩ <;> exact fun b => Vector.getElem?_eq_getElem b.isLt

end Sys2Proof.Machine
end

section
/-! SUPPORT. What raising an error does, in the words of `Raised` (60_exceptions.md R292), and what a BUILD does that is
refused or completes (40_system_commands.md R112). -/

namespace Sys2Proof.Machine

/-! ## Errors -/

/-- The record of a first error: the cause, the unit, and zeros above (10_state.md R26). -/
theorem errinfo_fields (unit code : BitVec 4) :
    ((unit ++ code).setWidth 32).extractLsb' 0 4 = code ∧ ((unit ++ code).setWidth 32).extractLsb' 4 4 = unit ∧
      ((unit ++ code).setWidth 32).extractLsb' 8 24 = 0#24 := by
  have hbit (j : Nat) : (unit ++ code).getLsbD j = if j < 4 then code.getLsbD j else unit.getLsbD (j - 4) :=
    BitVec.getLsbD_append
  refine ⟨?_, ?_, ?_⟩
  · ext i hi
    simp [hbit, hi, show i < 32 by omega]
  · ext i hi
    simp [hbit, hi, show 4 + i < 32 by omega]
  · ext i hi
    simp

/-- `raise` is the effect of 60_exceptions.md R292. -/
theorem raised_raise (e : ErrClass) (unit : BitVec 4) (val : Word) (s : State) :
    Raised e unit val s (raise e unit val s) where
  flag := by simp [hasError_raise]
  flags k hk := by simp [getLsbD_setFlag, hk]
  first h := by
    obtain ⟨hcode, hunit, hzero⟩ := errinfo_fields unit e.code
    rw [raise_of_first h]
    exact ⟨hcode, hunit, hzero, rfl⟩
  later h := by
    rw [raise_of_later h]
    exact ⟨rfl, rfl⟩
  rest := by
    by_cases h : s.errCode = 0#4
    · rw [raise_of_first h]
    · rw [raise_of_later h]

/-! ## BUILD commands -/

theorem clearFlag_of_clear {w : Word} {k : Nat} (h : w.getLsbD k = false) : clearFlag w k = w := by
  refine BitVec.eq_of_getLsbD_eq fun j _ => ?_
  rw [getLsbD_clearFlag]
  by_cases hj : j = k
  · simp [hj, h]
  · simp [hj]

/-- Clearing the flag of a unit that is not built does nothing. -/
theorem clearBuilt_of_not_built {s : State} {u : UnitId} (h : s.isBuilt u = false) : s.clearBuilt u = s := by
  rw [State.clearBuilt, clearFlag_of_clear h]

/-- A BUILD whose checks fail records `CfgError` and does nothing else beside clearing the flag. -/
theorem building_raised {δ : Type} {u : UnitId} {w : Word} {derived : Option δ} {install : δ → State → State}
    {s : State} (h : derived = none) :
    Raised .cfgError u.number w (s.clearBuilt u) (building u w derived install s) := by
  rw [h, building_of_none]
  exact raised_raise ..

/-- A BUILD that is refused while its unit is not built only records `CfgError`. -/
theorem building_raised_of_not_built {δ : Type} {u : UnitId} {w : Word} {derived : Option δ}
    {install : δ → State → State} {s : State} (hb : s.isBuilt u = false) (h : derived = none) :
    Raised .cfgError u.number w s (building u w derived install s) := by
  have hr : Raised .cfgError u.number w (s.clearBuilt u) (building u w derived install s) := building_raised h
  rwa [clearBuilt_of_not_built hb] at hr

/-- A `BIL.BUILD` that completes installs the derived state, sets the flag and starts the counter at 0. -/
theorem exec_bilBuild_of_some {s : State} {d : BilDerived} (h : bilDerive s.tables s.params s.bil.regs = some d) :
    exec .bilBuild s =
      .next { s with status := setFlag s.status 2, bil := { s.bil with der := d, blkcnt := 0#32 } } := by
  have hstatus : setFlag (clearFlag s.status 2) 2 = setFlag s.status 2 := setFlag_clearFlag ..
  rw [← hstatus, show exec .bilBuild s = execBilBuild s from rfl, execBilBuild, h, building_of_some]
  rfl

end Sys2Proof.Machine
end

section
/-! SUPPORT. The block after reset (10_state.md R65), whatever the table ROM, the parameters and the host's side. -/

namespace Sys2Proof.Machine

open Sys2Proof.Config

/-! ## Registers and queues -/

theorem geomRead_reset (f : GeomField) : geomRead resetGeomRegs f = 0#32 := by cases f <;> rfl

theorem l1bRead_reset (f : L1bField) : l1bRead resetL1Basic f = 0#32 := by cases f <;> rfl

theorem rwRead_resetBlock (s : State) (r : RwReg) : rwRead (resetBlock s) r = 0#32 := by
  cases r with
  | geom u f => cases u <;> exact geomRead_reset f
  | l1b f => exact l1bRead_reset f
  | _ => rfl

theorem roRead_resetBlock (s : State) (r : RoReg) : roRead (resetBlock s) r = 0#32 := by cases r <;> rfl

/-- Every register index reads 0. -/
theorem regRead_resetBlock (s : State) (i : BitVec 8) : regRead (resetBlock s) i = 0#32 := by
  unfold regRead
  split
  · rfl
  · exact rwRead_resetBlock s _
  · exact roRead_resetBlock s _
  · rfl

theorem allQueuesEmpty_resetBlock (s : State) : allQueuesEmpty (resetBlock s) :=
  ⟨rfl, rfl, rfl, rfl, rfl, rfl, rfl, rfl, rfl, rfl, rfl, rfl, rfl, rfl, rfl⟩

theorem isBuilt_resetBlock (s : State) (u : UnitId) : (resetBlock s).isBuilt u = false := BitVec.getLsbD_zero

/-! ## The configurations of reset -/

/-- No preamble symbol is configured. -/
theorem not_geomConfigOk_reset {t : Tables} {p : Params} {k : GeomKey} {geo : Geometry} :
    ¬ GeomConfigOk t p resetGeomRegs k geo :=
  fun h => absurd h.somePreamble (by decide)

/-- The block length of unit 1 is 0. -/
theorem bchDerive_reset (t : Tables) (p : Params) : bchDerive t p resetBch.regs = none := by
  rw [← Option.not_isSome_iff_eq_none, bchDerive_isSome_iff]
  exact fun h => h.nonzero rfl

/-- The block length of unit 2 is 0. -/
theorem ldpcDerive_reset (t : Tables) (p : Params) : ldpcDerive t p resetLdpc.regs = none := by
  refine Option.eq_none_iff_forall_ne_some.2 fun d hd => ?_
  obtain ⟨rows, hok, -, -⟩ := (ldpcDerive_eq_some_iff ..).1 hd
  exact hok.nonzero rfl

theorem fmDerive_reset (t : Tables) (p : Params) : fmDerive t p resetFm.regs = none := by
  refine Option.eq_none_iff_forall_ne_some.2 fun d hd => ?_
  obtain ⟨k, geo, hg, -, -⟩ := (fmDerive_eq_some_iff ..).1 hd
  exact not_geomConfigOk_reset hg

theorem fiDerive_reset (t : Tables) (p : Params) : fiDerive t p resetFi.regs = none := by
  refine Option.eq_none_iff_forall_ne_some.2 fun d hd => ?_
  obtain ⟨k, geo, nr, hg, -, -, -⟩ := (fiDerive_eq_some_iff ..).1 hd
  exact not_geomConfigOk_reset hg

theorem trDerive_reset (t : Tables) (p : Params) : trDerive t p resetTr.regs = none := by
  refine Option.eq_none_iff_forall_ne_some.2 fun d hd => ?_
  obtain ⟨k, geo, hg, -, -⟩ := (trDerive_eq_some_iff ..).1 hd
  exact not_geomConfigOk_reset hg

/-- With the default assignment unit 3 is configured for SHORT, C2_15 and MOD_QPSK. -/
theorem bilDerive_reset {t : Tables} {p : Params} {perm : List Nat} (he : p.enums = Enums.default)
    (hl : t.bilPerm.lookup (.short, .c2_15, .qpsk) = some perm) (hp : perm.Perm (List.range t.frameBits.short)) :
    ∃ d, bilDerive t p resetBil.regs = some d := by
  have hok : BilConfigOk t p resetBil.regs perm := by
    constructor
    · rw [he]
      exact ⟨.c2_15, .qpsk, rfl, rfl, hl⟩
    · rw [he]
      exact hp
  exact ⟨_, (bilDerive_eq_some_iff ..).2 ⟨perm, hok, rfl⟩⟩

/-! ## The BUILD commands from reset -/

section
variable (s : State)

theorem bchBuild_resetBlock :
    ∃ t, exec .bchBuild (resetBlock s) = .next t ∧ Raised .cfgError 1#4 0x10000000#32 (resetBlock s) t :=
  ⟨_, rfl, building_raised_of_not_built (isBuilt_resetBlock s .bch) (bchDerive_reset ..)⟩

theorem ldpcBuild_resetBlock :
    ∃ t, exec .ldpcBuild (resetBlock s) = .next t ∧ Raised .cfgError 2#4 0x20000000#32 (resetBlock s) t :=
  ⟨_, rfl, building_raised_of_not_built (isBuilt_resetBlock s .ldpc) (ldpcDerive_reset ..)⟩

theorem fmBuild_resetBlock :
    ∃ t, exec .fmBuild (resetBlock s) = .next t ∧ Raised .cfgError 4#4 0x40000000#32 (resetBlock s) t :=
  ⟨_, rfl, building_raised_of_not_built (isBuilt_resetBlock s .fm) (fmDerive_reset ..)⟩

theorem fiBuild_resetBlock :
    ∃ t, exec .fiBuild (resetBlock s) = .next t ∧ Raised .cfgError 5#4 0x50000000#32 (resetBlock s) t :=
  ⟨_, rfl, building_raised_of_not_built (isBuilt_resetBlock s .fi) (fiDerive_reset ..)⟩

theorem trBuild_resetBlock :
    ∃ t, exec .trBuild (resetBlock s) = .next t ∧ Raised .cfgError 6#4 0x60000000#32 (resetBlock s) t :=
  ⟨_, rfl, building_raised_of_not_built (isBuilt_resetBlock s .tr) (trDerive_reset ..)⟩

theorem bilBuild_resetBlock {perm : List Nat} (he : s.params.enums = Enums.default)
    (hl : s.tables.bilPerm.lookup (.short, .c2_15, .qpsk) = some perm)
    (hp : perm.Perm (List.range s.tables.frameBits.short)) :
    ∃ t, exec .bilBuild (resetBlock s) = .next t ∧ t.isBuilt .bil = true ∧ t.noError := by
  obtain ⟨d, hd⟩ := bilDerive_reset he hl hp
  refine ⟨_, exec_bilBuild_of_some hd, ?_, ?_⟩
  · rw [State.isBuilt, UnitId.builtBit, getLsbD_setFlag]
    simp
  · rw [State.noError, resetBlock_status]
    change (setFlag 0#32 2).extractLsb' 8 7 = 0#7
    decide

end

/-- Settles O23: the state after power-on reset is the reset block, with any table ROM and parameters. -/
theorem powerOnState : Obligations.PowerOnState := by
  unfold Obligations.PowerOnState
  refine ⟨regRead_resetBlock State.reset, allQueuesEmpty_resetBlock State.reset, fun tables params => ?_⟩
  intro s
  have hs : resetBlock s = s := rfl
  rw [← hs]
  exact ⟨bchBuild_resetBlock s, ldpcBuild_resetBlock s, fmBuild_resetBlock s, fiBuild_resetBlock s,
    trBuild_resetBlock s, fun he _ hl hp => bilBuild_resetBlock s he hl hp⟩

end Sys2Proof.Machine
end

section
/-! SUPPORT. The decoder gives well-formed commands alone (30_encoding.md R92), and the step that runs one (10_state.md R24). -/

namespace Sys2Proof

/-- A row of the opcode map gives well-formed commands, a counted one for every count that fits the field `n`. -/
def OpRow.Fits : OpRow → Prop
  | .plain i => i.wellFormed = true
  | .counted mk => ∀ n, n < countBound → (mk n).wellFormed = true

theorem opRow_fits {unit op : Nat} {row : OpRow} (h : opRow unit op = .ok row) : row.Fits := by
  unfold opRow at h
  split at h
  case h_17 => split at h <;> cases h
  all_goals
    cases h
    simp [OpRow.Fits, Instr.wellFormed]

/-- A decoded command is well-formed: its count is the sixteen bits of the field `n`. -/
theorem wellFormed_of_decode {w : Word} {i : Instr} (h : decode w = .ok i) : i.wellFormed = true := by
  unfold decode at h
  split at h
  · cases h
  · next row hrow =>
    have hfits := opRow_fits hrow
    split at h
    · cases h
    · split at h
      · cases h
        exact hfits _ (BitVec.isLt _)
      · split at h <;> cases h
        exact hfits

end Sys2Proof

namespace Sys2Proof.Machine

/-- The next action, when it writes a word that decodes, runs the command. -/
theorem step_of_command {s : State} {w : Word} {i : Instr} {rest : List HostAction}
    (hs : s.host.script = .regWrite 0#8 w :: rest) (hd : decode w = .ok i) : step s = exec i (s.withScript rest) := by
  simp [step, hs, commandWord, issue, hd]

/-- A whole word is its own 32-bit table word. -/
theorem tableWord_toNat (w : Word) : tableWord 32 w.toNat = w := by
  rw [tableWord, Nat.mod_eq_of_lt w.isLt, BitVec.ofNat_toNat, BitVec.setWidth_eq]

/-- Settles O1: the step's own equation, with the well-formedness of what the decoder answers. -/
theorem stepRunsDecodedCommand : Obligations.StepRunsDecodedCommand := by
  unfold Obligations.StepRunsDecodedCommand
  refine ⟨fun s w i rest hs hd => ⟨wellFormed_of_decode hd, step_of_command hs hd⟩, fun s w i hd => ?_, fun s => rfl⟩
  have hscript := withFetchWord_script s 32 w.toNat
  rw [tableWord_toNat] at hscript
  exact step_of_command hscript hd

end Sys2Proof.Machine
end

section
/-! SUPPORT. The parts of the block's invariant (10_state.md R25 to R27, R47): what changes of the status and error registers
keep it, and what changes of one unit. -/

namespace Sys2Proof.Machine

open Sys2Proof.Config

/-! ## Flags -/

/-- No error is recorded exactly when no sticky flag is set (60_exceptions.md R291, R301). -/
theorem noError_iff (s : State) : s.noError ↔ ∀ e : ErrClass, s.hasError e = false := by
  have hbits : s.noError ↔ ∀ j, j < 7 → s.status.getLsbD (8 + j) = false := by
    rw [State.noError, BitVec.eq_of_getLsbD_eq_iff]
    refine forall₂_congr fun j hj => ?_
    simp [hj]
  rw [hbits]
  constructor
  · intro h e
    have hj : e.statusBit - 8 < 7 ∧ 8 + (e.statusBit - 8) = e.statusBit := by cases e <;> decide
    rw [State.hasError, ← hj.2]
    exact h _ hj.1
  · intro h j hj
    have he : ∃ e : ErrClass, e.statusBit = 8 + j := by
      interval_cases j
      exacts [⟨.cfgError, rfl⟩, ⟨.illegalCommand, rfl⟩, ⟨.underrun, rfl⟩, ⟨.badItem, rfl⟩, ⟨.notBuilt, rfl⟩,
        ⟨.unimplemented, rfl⟩, ⟨.badReg, rfl⟩]
    obtain ⟨e, he⟩ := he
    exact he ▸ h e

/-- A flag outside a mask may be set in a word that is 0 under the mask. -/
theorem setFlag_and_eq_zero {w m : Word} {k : Nat} (h : w &&& m = 0#32) (hk : m.getLsbD k = false) :
    setFlag w k &&& m = 0#32 := by
  refine BitVec.eq_of_getLsbD_eq fun j _ => ?_
  have hj := congrArg (BitVec.getLsbD · j) h
  simp only [BitVec.getLsbD_and, BitVec.getLsbD_zero] at hj
  rw [BitVec.getLsbD_and, getLsbD_setFlag, BitVec.getLsbD_zero]
  by_cases hjk : j = k
  · rw [hjk, hk, Bool.and_false]
  · simp [hjk, hj]

theorem clearFlag_and_eq_zero {w m : Word} (h : w &&& m = 0#32) (k : Nat) : clearFlag w k &&& m = 0#32 := by
  rw [clearFlag, BitVec.and_assoc, BitVec.and_comm (~~~_), ← BitVec.and_assoc, h, BitVec.zero_and]

theorem hasError_setBuilt (s : State) (u : UnitId) (e : ErrClass) : (s.setBuilt u).hasError e = s.hasError e := by
  simp only [State.hasError, setBuilt_status, getLsbD_setFlag]
  cases e <;> cases u <;> simp [UnitId.builtBit, ErrClass.statusBit]

theorem hasError_clearBuilt (s : State) (u : UnitId) (e : ErrClass) : (s.clearBuilt u).hasError e = s.hasError e := by
  simp only [State.hasError, clearBuilt_status, getLsbD_clearFlag]
  cases e <;> cases u <;> simp [UnitId.builtBit, ErrClass.statusBit]

theorem ErrClass.code_ne_zero (e : ErrClass) : e.code ≠ 0#4 := by cases e <;> decide

theorem UnitId.number_le (u : UnitId) : u.number.toNat ≤ 6 := by cases u <;> decide

/-! ## The record of errors -/

theorem statusReservedZero_raise {s : State} (h : statusReservedZero s) (e : ErrClass) (unit : BitVec 4) (val : Word) :
    statusReservedZero (raise e unit val s) := by
  rw [statusReservedZero, raise_status]
  exact setFlag_and_eq_zero h (by cases e <;> decide)

theorem statusReservedZero_setBuilt {s : State} (h : statusReservedZero s) (u : UnitId) :
    statusReservedZero (s.setBuilt u) :=
  setFlag_and_eq_zero h (by cases u <;> decide)

theorem statusReservedZero_clearBuilt {s : State} (h : statusReservedZero s) (u : UnitId) :
    statusReservedZero (s.clearBuilt u) :=
  clearFlag_and_eq_zero h _

/-- The record's agreement with the flags reads the two registers and the flags alone. -/
theorem errorRecordOk_congr {s t : State} (hi : t.errinfo = s.errinfo) (hv : t.errval = s.errval)
    (hf : ∀ e, t.hasError e = s.hasError e) : errorRecordOk t ↔ errorRecordOk s := by
  simp only [errorRecordOk, State.errUnit, State.errCode, noError_iff, hi, hv, hf]

/-- Raising an error records it or leaves the record of the first one (60_exceptions.md R292). -/
theorem errorRecordOk_raise {s : State} (h : errorRecordOk s) {e : ErrClass} {unit : BitVec 4} (hu : unit.toNat ≤ 6)
    (val : Word) : errorRecordOk (raise e unit val s) := by
  obtain ⟨hflag, -, hfirst, hlater, -⟩ := raised_raise e unit val s
  obtain ⟨hzero, hunit, -, hcode⟩ := h
  by_cases hs : s.errCode = 0#4
  · obtain ⟨htcode, htunit, htzero, -⟩ := hfirst hs
    exact ⟨htzero, (congrArg BitVec.toNat htunit).trans_le hu, fun h0 => absurd (htcode.symm.trans h0) e.code_ne_zero,
      fun _ => ⟨e, htcode.symm, hflag⟩⟩
  · obtain ⟨hinfo, -⟩ := hlater hs
    have hcodeEq : (raise e unit val s).errCode = s.errCode := by simp only [State.errCode, hinfo]
    obtain ⟨f, hf, hset⟩ := hcode hs
    refine ⟨hinfo ▸ hzero, ?_, fun h0 => absurd (hcodeEq.symm.trans h0) hs, fun _ => ⟨f, hf.trans hcodeEq.symm, ?_⟩⟩
    · rw [State.errUnit, hinfo]
      exact hunit
    · rw [hasError_raise, hset, Bool.true_or]

/-! ## Built units -/

/-- What the invariant asks of a built unit: its derived state is that of its configuration, and its symbol index, if it has
one, is inside the frame. -/
def Ready (s : State) : UnitId → Prop
  | .bch => bchDerive s.tables s.params s.bch.regs = some s.bch.der
  | .ldpc => ldpcDerive s.tables s.params s.ldpc.regs = some s.ldpc.der
  | .bil => bilDerive s.tables s.params s.bil.regs = some s.bil.der
  | .fm => fmDerive s.tables s.params s.fm.regs = some s.fm.der
  | .fi => fiDerive s.tables s.params s.fi.regs = some s.fi.der ∧ s.fi.symidx.toNat < s.fi.der.geom.symbols
  | .tr => trDerive s.tables s.params s.tr.regs = some s.tr.der ∧ s.tr.symidx.toNat < s.tr.der.geom.symbols

theorem forall_ready_iff (s : State) :
    (∀ u, s.isBuilt u = true → Ready s u) ↔ BuiltValid s ∧ symbolIndexOk s := by
  constructor
  · intro h
    exact ⟨⟨h .bch, h .ldpc, h .bil, h .fm, fun hb => (h .fi hb).1, fun hb => (h .tr hb).1⟩,
      fun hb => (h .fi hb).2, fun hb => (h .tr hb).2⟩
  · rintro ⟨⟨hbch, hldpc, hbil, hfm, hfi, htr⟩, hfiIdx, htrIdx⟩ u hb
    cases u
    case bch => exact hbch hb
    case ldpc => exact hldpc hb
    case bil => exact hbil hb
    case fm => exact hfm hb
    case fi => exact ⟨hfi hb, hfiIdx hb⟩
    case tr => exact ⟨htr hb, htrIdx hb⟩

theorem Inv.ready {s : State} (h : Inv s) {u : UnitId} (hb : s.isBuilt u = true) : Ready s u :=
  (forall_ready_iff s).2 ⟨h.built, h.index⟩ u hb

theorem Inv.of_ready {s : State} (hres : statusReservedZero s) (hrec : errorRecordOk s)
    (hready : ∀ u, s.isBuilt u = true → Ready s u) (hout : outputBitsOk s) : Inv s := by
  obtain ⟨hbuilt, hindex⟩ := (forall_ready_iff s).1 hready
  exact ⟨hres, hrec, hbuilt, hindex, hout⟩

/-- Raising an error changes nothing that a unit's readiness reads. -/
theorem ready_raise (e : ErrClass) (unit : BitVec 4) (val : Word) (s : State) (u : UnitId) :
    Ready (raise e unit val s) u ↔ Ready s u := by
  cases u <;> simp [Ready]

theorem ready_setBuilt (s : State) (v u : UnitId) : Ready (s.setBuilt v) u ↔ Ready s u := by cases u <;> rfl

theorem ready_clearBuilt (s : State) (v u : UnitId) : Ready (s.clearBuilt v) u ↔ Ready s u := by cases u <;> rfl

/-- The output queues alone are read. -/
theorem outputBitsOk_congr {s t : State} (hq : ∀ q, bitOutItems t q = bitOutItems s q) :
    outputBitsOk t ↔ outputBitsOk s := by
  simp only [outputBitsOk, hq]

/-! ## What keeps the invariant -/

section
variable {s : State} (h : Inv s)
include h

theorem Inv.raise (e : ErrClass) {unit : BitVec 4} (hu : unit.toNat ≤ 6) (val : Word) :
    Inv (Machine.raise e unit val s) := by
  refine .of_ready (statusReservedZero_raise h.reserved ..) (errorRecordOk_raise h.record hu val) (fun u hb => ?_)
    ((outputBitsOk_congr fun q => by cases q <;> simp [bitOutItems]).2 h.outputs)
  rw [isBuilt_raise] at hb
  exact (ready_raise ..).2 (h.ready hb)

theorem Inv.clearBuilt (u : UnitId) : Inv (s.clearBuilt u) := by
  refine .of_ready (statusReservedZero_clearBuilt h.reserved u)
    ((errorRecordOk_congr (t := s.clearBuilt u) (s := s) rfl rfl (hasError_clearBuilt s u)).2 h.record) (fun v hb => ?_)
    ((outputBitsOk_congr fun q => by cases q <;> rfl).2 h.outputs)
  rw [isBuilt_clearBuilt, Bool.and_eq_true] at hb
  exact (ready_clearBuilt ..).2 (h.ready hb.1)

theorem Inv.setBuilt {u : UnitId} (hu : Ready s u) : Inv (s.setBuilt u) := by
  refine .of_ready (statusReservedZero_setBuilt h.reserved u)
    ((errorRecordOk_congr (t := s.setBuilt u) (s := s) rfl rfl (hasError_setBuilt s u)).2 h.record) (fun v hb => ?_)
    ((outputBitsOk_congr fun q => by cases q <;> rfl).2 h.outputs)
  rw [isBuilt_setBuilt, Bool.or_eq_true, decide_eq_true_eq] at hb
  rw [ready_setBuilt]
  rcases hb with hb | rfl
  · exact h.ready hb
  · exact hu

/-- The invariant does not read the host's side. -/
theorem Inv.with_host (side : HostSide) : Inv { s with host := side } :=
  ⟨h.reserved, h.record, { h.built with }, h.index, (outputBitsOk_congr fun q => by cases q <;> rfl).2 h.outputs⟩

theorem Inv.with_bch {b : BchUnit} (hb : s.isBuilt .bch = true → bchDerive s.tables s.params b.regs = some b.der)
    (ho : ∀ x ∈ b.outq, isBitItem x = true) : Inv { s with bch := b } :=
  ⟨h.reserved, h.record, { h.built with bch := hb }, h.index, fun
    | .bch => ho | .ldpc => h.outputs .ldpc | .bil => h.outputs .bil | .fmL1b => h.outputs .fmL1b⟩

theorem Inv.with_ldpc {b : LdpcUnit} (hb : s.isBuilt .ldpc = true → ldpcDerive s.tables s.params b.regs = some b.der)
    (ho : ∀ x ∈ b.outq, isBitItem x = true) : Inv { s with ldpc := b } :=
  ⟨h.reserved, h.record, { h.built with ldpc := hb }, h.index, fun
    | .bch => h.outputs .bch | .ldpc => ho | .bil => h.outputs .bil | .fmL1b => h.outputs .fmL1b⟩

theorem Inv.with_bil {b : BilUnit} (hb : s.isBuilt .bil = true → bilDerive s.tables s.params b.regs = some b.der)
    (ho : ∀ x ∈ b.outq, isBitItem x = true) : Inv { s with bil := b } :=
  ⟨h.reserved, h.record, { h.built with bil := hb }, h.index, fun
    | .bch => h.outputs .bch | .ldpc => h.outputs .ldpc | .bil => ho | .fmL1b => h.outputs .fmL1b⟩

theorem Inv.with_fm {b : FmUnit} (hb : s.isBuilt .fm = true → fmDerive s.tables s.params b.regs = some b.der)
    (ho : ∀ x ∈ b.l1bOut, isBitItem x = true) : Inv { s with fm := b } :=
  ⟨h.reserved, h.record, { h.built with fm := hb }, h.index, fun
    | .bch => h.outputs .bch | .ldpc => h.outputs .ldpc | .bil => h.outputs .bil | .fmL1b => ho⟩

theorem Inv.with_fi {b : FiUnit} (hb : s.isBuilt .fi = true → fiDerive s.tables s.params b.regs = some b.der)
    (hidx : s.isBuilt .fi = true → b.symidx.toNat < b.der.geom.symbols) : Inv { s with fi := b } :=
  ⟨h.reserved, h.record, { h.built with fi := hb }, ⟨hidx, h.index.2⟩,
    (outputBitsOk_congr fun q => by cases q <;> rfl).2 h.outputs⟩

theorem Inv.with_tr {b : TrUnit} (hb : s.isBuilt .tr = true → trDerive s.tables s.params b.regs = some b.der)
    (hidx : s.isBuilt .tr = true → b.symidx.toNat < b.der.geom.symbols) : Inv { s with tr := b } :=
  ⟨h.reserved, h.record, { h.built with tr := hb }, ⟨h.index.1, hidx⟩,
    (outputBitsOk_congr fun q => by cases q <;> rfl).2 h.outputs⟩

/-- The BUILD skeleton (40_system_commands.md R112) keeps the invariant if installing a derived state does, with the unit not
built, and makes the unit ready. -/
theorem Inv.building {δ : Type} {u : UnitId} {derived : Option δ} {install : δ → State → State} (w : Word)
    (hi : ∀ d, derived = some d → Inv (install d (s.clearBuilt u)) ∧ Ready (install d (s.clearBuilt u)) u) :
    Inv (building u w derived install s) := by
  cases derived with
  | none =>
    rw [building_of_none]
    exact (h.clearBuilt u).raise _ u.number_le w
  | some d =>
    rw [building_of_some]
    obtain ⟨hinv, hready⟩ := hi d rfl
    exact hinv.setBuilt hready

/-- The streaming skeleton (40_system_commands.md R111) keeps the invariant if the firings do. -/
theorem Inv.streaming {u : UnitId} {short bad : Bool} {fire : State → State} (w : Word)
    (hf : s.isBuilt u = true → short = false → bad = false → Inv (fire s)) : Inv (streaming u w short bad fire s) := by
  obtain ⟨e, he⟩ | ⟨hb, hshort, hbad, he⟩ := streaming_cases u w short bad fire s
  · rw [he]
    exact h.raise e u.number_le w
  · rw [he]
    exact hf hb hshort hbad

end

/-! ## Reset -/

theorem noError_resetBlock (s : State) : (resetBlock s).noError :=
  (noError_iff _).2 fun _ => BitVec.getLsbD_zero

/-- The block after reset has the invariant, whatever the table ROM, the parameters and the host's side. -/
theorem inv_resetBlock (s : State) : Inv (resetBlock s) := by
  refine .of_ready (by simp [statusReservedZero]) ⟨?_, ?_, fun _ => ⟨rfl, rfl, noError_resetBlock s⟩, ?_⟩
    (fun u hb => ?_) fun q => ?_
  · exact BitVec.extractLsb'_zero
  · simp [State.errUnit]
  · exact fun hc => absurd rfl hc
  · rw [isBuilt_resetBlock] at hb
    cases hb
  · cases q <;> exact fun x hx => nomatch hx

/-- Settles O18: power-on reset is a reset of the block. -/
theorem resetSatisfiesInvariant : Obligations.ResetSatisfiesInvariant := by
  unfold Obligations.ResetSatisfiesInvariant
  exact inv_resetBlock State.reset

/-- Settles O22: the state after the command is the block after reset. -/
theorem sysResetClearsTheBlock : Obligations.SysResetClearsTheBlock := by
  unfold Obligations.SysResetClearsTheBlock
  exact fun s => ⟨resetBlock s, rfl, regRead_resetBlock s, allQueuesEmpty_resetBlock s, isBuilt_resetBlock s,
    noError_resetBlock s, rfl, rfl, rfl⟩

end Sys2Proof.Machine
end

section
/-! SUPPORT. Many firings of a streaming command at once (40_system_commands.md R111): block `k` of the queue is what firing
`k` takes. Unit 6, whose scratch has no such form, is not among them. -/

namespace Sys2Proof.Machine

open Sys2Proof.Config

/-! ## Blocks of a queue -/

/-- What one more firing appends. -/
theorem flatMap_range_succ {α : Type} (f : Nat → List α) (n : Nat) :
    (List.range (n + 1)).flatMap f = (List.range n).flatMap f ++ f n := by
  rw [List.range_succ, List.flatMap_append, List.flatMap_singleton]

/-- A counter that advances by one with each firing (10_state.md R47). -/
theorem count_add_one (c : Word) (n : Nat) : c + BitVec.ofNat 32 n + 1#32 = c + BitVec.ofNat 32 (n + 1) := by
  rw [BitVec.add_assoc, BitVec.ofNat_add]

/-- The items of a block of `n` are among those `n` firings take. -/
theorem mem_take_of_mem_blockAt {α : Type} {q : List α} {len k n : Nat} {x : α} (hk : k < n) (hx : x ∈ blockAt q len k) :
    x ∈ q.take (n * len) := by
  have hlen : k * len + len ≤ n * len := by
    rw [← Nat.succ_mul]
    exact Nat.mul_le_mul_right len hk
  rw [blockAt, List.take_drop] at hx
  exact List.take_subset_take_left q hlen (List.mem_of_mem_drop hx)

/-- Every item that `n` firings append is a bit item if each block's are. -/
theorem isBitItem_of_mem_append_blocks {q old : List Byte} {f : List Byte → List Byte} {len n : Nat}
    (hold : ∀ x ∈ old, isBitItem x = true) (hbad : hasBadItem q (n * len) = false)
    (hf : ∀ blk : List Byte, (∀ x ∈ blk, isBitItem x = true) → ∀ x ∈ f blk, isBitItem x = true) :
    ∀ x ∈ old ++ (List.range n).flatMap (fun k => f (blockAt q len k)), isBitItem x = true := by
  intro x hx
  rcases List.mem_append.1 hx with hx | hx
  · exact hold x hx
  · obtain ⟨k, hk, hx⟩ := List.mem_flatMap.1 hx
    exact hf _ (fun y hy => hasBadItem_eq_false.1 hbad y (mem_take_of_mem_blockAt (List.mem_range.1 hk) hy)) x hx

/-- The bit items are 0x00 and 0x01 (20_memory.md R72). -/
theorem isBitItem_iff (x : Byte) : isBitItem x = true ↔ x = 0x00#8 ∨ x = 0x01#8 := by
  simp [isBitItem]

/-! ## The firings of each unit -/

theorem bchFire_iterate (p : Params) (u : BchUnit) (n : Nat) :
    ∃ reg crc, (bchFire p)^[n] u =
      { u with
        inq := u.inq.drop (n * u.der.kbch)
        outq := u.outq ++ (List.range n).flatMap (fun k =>
          blockAt u.inq u.der.kbch k ++ bchSuffix p u.der (blockAt u.inq u.der.kbch k))
        blkcnt := u.blkcnt + BitVec.ofNat 32 n
        reg := reg
        crc := crc } := by
  induction n with
  | zero => exact ⟨u.reg, u.crc, by simp⟩
  | succ n ih =>
    obtain ⟨reg, crc, ih⟩ := ih
    refine ⟨bchRegAfter u.der (blockAt u.inq u.der.kbch n) reg, bchCrcAfter p u.der (blockAt u.inq u.der.kbch n) crc, ?_⟩
    rw [Function.iterate_succ_apply', ih, flatMap_range_succ, ← count_add_one, Nat.succ_mul, ← List.append_assoc,
      ← List.drop_drop]
    rfl

theorem ldpcFire_iterate (u : LdpcUnit) (n : Nat) :
    ldpcFire^[n] u =
      { u with
        inq := u.inq.drop (n * u.der.nbch)
        outq := u.outq ++ (List.range n).flatMap (fun k => ldpcCodeword u.der.lut (blockAt u.inq u.der.nbch k))
        blkcnt := u.blkcnt + BitVec.ofNat 32 n } := by
  induction n with
  | zero => simp
  | succ n ih =>
    rw [Function.iterate_succ_apply', ih, flatMap_range_succ, ← count_add_one, Nat.succ_mul, ← List.append_assoc,
      ← List.drop_drop]
    rfl

theorem bilFire_iterate (u : BilUnit) (n : Nat) :
    bilFire^[n] u =
      { u with
        inq := u.inq.drop (n * u.der.n)
        outq := u.outq ++ (List.range n).flatMap (fun k => gather 0x00#8 (blockAt u.inq u.der.n k) u.der.perm)
        blkcnt := u.blkcnt + BitVec.ofNat 32 n } := by
  induction n with
  | zero => simp
  | succ n ih =>
    rw [Function.iterate_succ_apply', ih, flatMap_range_succ, ← count_add_one, Nat.succ_mul, ← List.append_assoc,
      ← List.drop_drop]
    rfl

theorem fmFire_iterate (u : FmUnit) (n : Nat) :
    fmFire^[n] u =
      { u with
        l1bIn := u.l1bIn.drop (n * u.der.l1bCells)
        l1dIn := u.l1dIn.drop (n * u.der.l1dCells)
        plpIn := u.plpIn.drop (n * u.der.plpCells)
        outq := u.outq ++ (List.range n).flatMap (fun k =>
          fmPlace (blockAt u.l1bIn u.der.l1bCells k) (blockAt u.l1dIn u.der.l1dCells k)
            (blockAt u.plpIn u.der.plpCells k))
        framecnt := u.framecnt + BitVec.ofNat 32 n } := by
  induction n with
  | zero => simp
  | succ n ih =>
    rw [Function.iterate_succ_apply', ih, flatMap_range_succ, ← count_add_one, Nat.succ_mul, Nat.succ_mul, Nat.succ_mul,
      ← List.append_assoc, ← List.drop_drop, ← List.drop_drop, ← List.drop_drop]
    rfl

/-! ## The symbols of a stream -/

section
variable {geo : Geometry} {idx : Word} (h : idx.toNat < geo.symbols) (h2 : geo.symbols ≤ 2 ^ 16)
include h

theorem symbolAt_lt (k : Nat) : symbolAt geo idx k < geo.symbols := Nat.mod_lt _ (by omega)

theorem symbolAt_zero : symbolAt geo idx 0 = idx.toNat := Nat.mod_eq_of_lt h

include h2

/-- A symbol index fits its register. -/
theorem toNat_ofNat_symbolAt (k : Nat) : (BitVec.ofNat 32 (symbolAt geo idx k)).toNat = symbolAt geo idx k := by
  have hlt := symbolAt_lt h k
  rw [BitVec.toNat_ofNat, Nat.mod_eq_of_lt (by omega)]

theorem nextSymidx_symbolAt (k : Nat) :
    nextSymidx geo.symbols (BitVec.ofNat 32 (symbolAt geo idx k)) = BitVec.ofNat 32 (symbolAt geo idx (k + 1)) := by
  have hk := toNat_ofNat_symbolAt h h2 k
  refine BitVec.eq_of_toNat_eq ?_
  rw [nextSymidx_toNat (hk.trans_lt (symbolAt_lt h k)) h2, hk, toNat_ofNat_symbolAt h h2, symbolAt, symbolAt, Nat.mod_add_mod,
    Nat.add_assoc]

/-- The frame counter counts the whole frames since symbol 0 of the present one. -/
theorem nextFramecnt_symbolAt (cnt : Word) (k : Nat) :
    nextFramecnt geo.symbols (BitVec.ofNat 32 (symbolAt geo idx k))
        (cnt + BitVec.ofNat 32 ((idx.toNat + k) / geo.symbols)) =
      cnt + BitVec.ofNat 32 ((idx.toNat + (k + 1)) / geo.symbols) := by
  have hdvd : geo.symbols ∣ idx.toNat + k + 1 ↔ symbolAt geo idx k + 1 = geo.symbols := by
    obtain ⟨m, hm⟩ := Nat.exists_eq_succ_of_ne_zero (show geo.symbols ≠ 0 by omega)
    rw [Nat.dvd_iff_mod_eq_zero, symbolAt, hm, Nat.succ_mod_succ_eq_zero_iff, Nat.succ_inj]
  rw [nextFramecnt, toNat_ofNat_symbolAt h h2, ← Nat.add_assoc, Nat.succ_div]
  by_cases hlast : symbolAt geo idx k + 1 = geo.symbols
  · rw [if_pos hlast, if_pos (hdvd.2 hlast), count_add_one]
  · rw [if_neg hlast, if_neg (mt hdvd.1 hlast), Nat.add_zero]

end

/-- The cells of one symbol more. -/
theorem cellsBefore_succ (geo : Geometry) (idx : Word) (k : Nat) :
    cellsBefore geo idx (k + 1) = cellsBefore geo idx k + geo.frameCells.getD (symbolAt geo idx k) 0 := by
  simp [cellsBefore, List.range_succ]

theorem fiFire_iterate {u : FiUnit} (h : u.symidx.toNat < u.der.geom.symbols) (h2 : u.der.geom.symbols ≤ 2 ^ 16)
    (n : Nat) :
    fiFire^[n] u =
      { u with
        inq := u.inq.drop (cellsBefore u.der.geom u.symidx n)
        outq := u.outq ++ (List.range n).flatMap (fun k => fiSymbol u.der (symbolAt u.der.geom u.symidx k) (fiBlock u k))
        symidx := BitVec.ofNat 32 (symbolAt u.der.geom u.symidx n)
        framecnt := u.framecnt + BitVec.ofNat 32 ((u.symidx.toNat + n) / u.der.geom.symbols) } := by
  induction n with
  | zero => simp [cellsBefore, symbolAt_zero h, Nat.div_eq_of_lt h]
  | succ n ih =>
    rw [Function.iterate_succ_apply', ih, flatMap_range_succ, ← nextSymidx_symbolAt h h2, ← nextFramecnt_symbolAt h h2,
      ← List.append_assoc, cellsBefore_succ, ← List.drop_drop, fiFire]
    simp only [toNat_ofNat_symbolAt h h2, fiBlock]

/-! ## Commands that are ready to fire -/

/-- Settles O28: the checks pass, and the firings take block after block. -/
theorem bchEncCompletes : Obligations.BchEncCompletes := by
  unfold Obligations.BchEncCompletes
  intro n s hb hlen hbits
  have hbad : hasBadItem s.bch.inq (n * s.bch.der.kbch) = false :=
    hasBadItem_eq_false.2 fun x hx => (isBitItem_iff x).2 (hbits x hx)
  obtain ⟨reg, crc, hfire⟩ := bchFire_iterate s.params s.bch n
  refine ⟨reg, crc, ?_⟩
  rw [show exec (.bchEnc n) s = execBchEnc n s from rfl, execBchEnc, hbad, decide_eq_false (Nat.not_lt.2 hlen),
    streaming_of_ready hb, hfire]

/-- Settles O49: the need is the sum over the next symbols, and the firings take symbol after symbol. -/
theorem fiSymCompletes : Obligations.FiSymCompletes := by
  unfold Obligations.FiSymCompletes
  intro n s hvalid hindex hb hlen
  have hidx := hindex.1 hb
  have hsym := fi_symbols_le hvalid hb
  rw [show exec (.fiSym n) s = execFiSym n s from rfl, execFiSym, fiNeed_eq_cellsBefore n hidx hsym,
    decide_eq_false (Nat.not_lt.2 hlen), streaming_of_ready hb, fiFire_iterate hidx hsym]

end Sys2Proof.Machine
end

section
/-! SUPPORT. The register file as the host sees it (10_state.md R22, R23): what a register reads after a write to it and to
another one, what a write leaves unchanged, and which unit owns an index. -/

namespace Sys2Proof.Machine

open Sys2Proof.Config

/-! ## A register after a write -/

theorem geomRead_geomWrite (g : GeomRegs) (v : Word) (u : GeomUnit) (f f' : GeomField) :
    geomRead (geomWrite g v f) f' = if f' = f then lowBits v (RwReg.geom u f).width else geomRead g f' := by
  cases f <;> cases f' <;> rfl

theorem l1bRead_l1bWrite (l : L1Basic) (v : Word) (f f' : L1bField) :
    l1bRead (l1bWrite l v f) f' = if f' = f then lowBits v (RwReg.l1b f).width else l1bRead l f' := by
  cases f <;> cases f' <;> rfl

theorem geomRegs_withGeomRegs (s : State) (g : GeomRegs) (u u' : GeomUnit) :
    (s.withGeomRegs g u).geomRegs u' = if u' = u then g else s.geomRegs u' := by
  cases u <;> cases u' <;> rfl

/-- The register written holds the low bits of the value, as many as its field has; every other one is as it was. -/
theorem rwRead_rwWrite (s : State) (v : Word) (r r' : RwReg) :
    rwRead (rwWrite s v r) r' = if r' = r then lowBits v r.width else rwRead s r' := by
  cases r with
  | geom u f =>
    cases r' with
    | geom u' f' =>
      rw [rwWrite, rwRead, geomRegs_withGeomRegs]
      by_cases hu : u' = u
      · rw [if_pos hu, geomRead_geomWrite _ _ u]
        simp [hu, rwRead]
      · simp [hu, rwRead]
    | _ => cases u <;> rfl
  | l1b f =>
    cases r' with
    | l1b f' =>
      rw [rwWrite, rwRead, l1bRead_l1bWrite]
      simp [rwRead]
    | geom u' f' => cases u' <;> rfl
    | _ => rfl
  | _ =>
    cases r' with
    | geom u' f' => cases u' <;> rfl
    | _ => rfl

theorem rwRead_clearOwner (s : State) (o : Option UnitId) (r : RwReg) : rwRead (s.clearOwner o) r = rwRead s r := by
  cases o with
  | none => rfl
  | some u =>
    cases r with
    | geom g f => cases g <;> rfl
    | _ => rfl

/-! ## What a write leaves unchanged -/

/-- A register write changes nothing but the registers of the units. -/
theorem rwWrite_eq (s : State) (v : Word) (r : RwReg) :
    rwWrite s v r =
      { s with
        bch := { s.bch with regs := (rwWrite s v r).bch.regs }
        ldpc := { s.ldpc with regs := (rwWrite s v r).ldpc.regs }
        bil := { s.bil with regs := (rwWrite s v r).bil.regs }
        fm := { s.fm with regs := (rwWrite s v r).fm.regs, l1 := (rwWrite s v r).fm.l1 }
        fi := { s.fi with regs := (rwWrite s v r).fi.regs }
        tr := { s.tr with regs := (rwWrite s v r).tr.regs } } := by
  cases r with
  | geom u f => cases u <;> rfl
  | _ => rfl

/-- No read-only register is written. -/
theorem roRead_rwWrite (s : State) (v : Word) (r : RwReg) (ro : RoReg) : roRead (rwWrite s v r) ro = roRead s ro := by
  rw [rwWrite_eq]
  cases ro <;> rfl

/-- Clearing an owner's flag is seen in `STATUS` alone. -/
theorem roRead_clearOwner (s : State) (o : Option UnitId) {ro : RoReg} (h : ro ≠ .status) :
    roRead (s.clearOwner o) ro = roRead s ro := by
  cases o with
  | none => rfl
  | some u =>
    cases ro with
    | status => exact absurd rfl h
    | _ => rfl

theorem clearOwner_eq (s : State) (o : Option UnitId) : s.clearOwner o = { s with status := (s.clearOwner o).status } := by
  cases o <;> rfl

/-! ## The register map -/

/-- The map lists no register twice. -/
theorem nodup_regMap_registers : (regMap.map Prod.snd).Nodup := by decide +kernel

theorem mem_regMap_of_regAt {i : BitVec 8} (h : regAt i ≠ .unimplemented) : (i.toNat, regAt i) ∈ regMap := by
  cases hl : regMap.lookup i.toNat with
  | none => exact absurd (by rw [regAt, hl]; rfl) h
  | some sel =>
    obtain ⟨l₁, l₂, hmap, -⟩ := List.lookup_eq_some_iff.1 hl
    rw [regAt, hl, hmap]
    simp

/-- A register has one index. -/
theorem index_unique {i j : BitVec 8} (h : regAt i = regAt j) (hi : regAt i ≠ .unimplemented) : i = j := by
  have hmemi := mem_regMap_of_regAt hi
  have hmemj := mem_regMap_of_regAt (h ▸ hi)
  have hpair := List.inj_on_of_nodup_map nodup_regMap_registers hmemi hmemj h
  exact BitVec.eq_of_toNat_eq (congrArg Prod.fst hpair)

/-- Whether an index names a register of kind `RW`. -/
def RegSel.isRw : RegSel → Bool
  | .rw _ => true
  | .cmd | .ro _ | .unimplemented => false

theorem RegSel.isRw_iff (sel : RegSel) : sel.isRw = true ↔ ∃ r, sel = .rw r := by cases sel <;> simp [RegSel.isRw]

/-- The unit whose BUILT flag a write to an index clears. -/
def RegSel.owner : RegSel → Option UnitId
  | .rw r => r.owner
  | .cmd | .ro _ | .unimplemented => none

/-- The ranges of the registers of kind `RW` (10_state.md R65) are those of the map. -/
theorem isRwIndex_eq : ∀ i : BitVec 8, isRwIndex i = (regAt i).isRw := by decide +kernel

theorem isRwIndex_iff (i : BitVec 8) : isRwIndex i = true ↔ ∃ r, regAt i = .rw r := by
  rw [isRwIndex_eq, RegSel.isRw_iff]

/-- The ranges that clear a unit's flag (10_state.md R25) hold the unit's registers. -/
theorem ownedBy_of_mem_regMap (u : UnitId) :
    ∀ e ∈ regMap, ownedBy u (BitVec.ofNat 8 e.1) = decide (e.2.owner = some u) := by
  cases u <;> decide +kernel

theorem ownedBy_iff {i : BitVec 8} {r : RwReg} (h : regAt i = .rw r) (u : UnitId) :
    ownedBy u i = true ↔ r.owner = some u := by
  have hmem := ownedBy_of_mem_regMap u _ (mem_regMap_of_regAt (i := i) (by simp [h]))
  rw [BitVec.ofNat_toNat, BitVec.setWidth_eq, h] at hmem
  rw [hmem, RegSel.owner, decide_eq_true_eq]

/-! ## The command -/

theorem step_regWrite {s : State} {i : BitVec 8} {v : Word} {r : RwReg} {rest : List HostAction}
    (hs : s.host.script = .regWrite i v :: rest) (hr : regAt i = .rw r) :
    step s = .next ((rwWrite (s.withScript rest) v r).clearOwner r.owner) := by
  have hi : i ≠ 0#8 := fun h0 => by
    rw [h0] at hr
    cases (show RegSel.cmd = .rw r from hr)
  simp [step, hs, commandWord, hi, perform, regWrite_of_rw hr]

/-- What any register reads after a write of a register of kind `RW`. -/
theorem regRead_after_write {i j : BitVec 8} {r : RwReg} (s : State) (v : Word) (hr : regAt i = .rw r) (hji : j ≠ i)
    (hj : j ≠ 0x01#8) : regRead ((rwWrite s v r).clearOwner r.owner) j = regRead s j := by
  unfold regRead
  cases hsel : regAt j with
  | cmd => rfl
  | unimplemented => rfl
  | ro ro =>
    have hro : ro ≠ .status := fun h0 => hj (index_unique (hsel.trans (h0 ▸ rfl)) (by simp [hsel]))
    exact (roRead_clearOwner _ _ hro).trans (roRead_rwWrite ..)
  | rw r' =>
    have hne : r' ≠ r := fun h0 => hji (index_unique (hsel.trans (h0 ▸ hr.symm)) (by simp [hsel]))
    show rwRead _ r' = rwRead s r'
    rw [rwRead_clearOwner, rwRead_rwWrite, if_neg hne]

/-- Settles O8: the register map's ranges, and the laws of the register file. -/
theorem registerWriteStoresItsField : Obligations.RegisterWriteStoresItsField := by
  unfold Obligations.RegisterWriteStoresItsField
  refine ⟨isRwIndex_iff, fun s i v r rest hs hr => ⟨_, step_regWrite hs hr, ?_, fun j hji hj => ?_, fun u hu => ?_,
    fun hu => ?_, ?_⟩⟩
  · rw [regRead, hr]
    show rwRead _ r = _
    rw [rwRead_clearOwner, rwRead_rwWrite, if_pos rfl]
  · exact regRead_after_write (s.withScript rest) v hr hji hj
  · rw [(ownedBy_iff hr u).1 hu]
    simp [State.clearOwner]
  · have hnone : r.owner = none :=
      Option.eq_none_iff_forall_ne_some.2 fun u h0 => Bool.eq_false_iff.1 (hu u) ((ownedBy_iff hr u).2 h0)
    rw [hnone]
    simp [State.clearOwner]
  · rw [clearOwner_eq, rwWrite_eq]
    rfl

end Sys2Proof.Machine
end

section
/-! SUPPORT. Every action of the host and every command keeps the block's invariant. -/

namespace Sys2Proof.Machine

open Sys2Proof.Config

/-! ## Register writes and their units -/

section
variable {s : State} {v : Word} {r : RwReg}

theorem rwWrite_bch_regs (h : r.owner ≠ some .bch) : (rwWrite s v r).bch.regs = s.bch.regs := by
  cases r with
  | bchFrameSize | bchKbch | bchFecMode => exact absurd rfl h
  | geom g f => cases g <;> rfl
  | _ => rfl

theorem rwWrite_ldpc_regs (h : r.owner ≠ some .ldpc) : (rwWrite s v r).ldpc.regs = s.ldpc.regs := by
  cases r with
  | ldpcFrameSize | ldpcRate | ldpcNbch | ldpcType | ldpcQ | ldpcQ1 | ldpcQ2 | ldpcM1 | ldpcM2 => exact absurd rfl h
  | geom g f => cases g <;> rfl
  | _ => rfl

theorem rwWrite_bil_regs (h : r.owner ≠ some .bil) : (rwWrite s v r).bil.regs = s.bil.regs := by
  cases r with
  | bilFrameSize | bilRate | bilMod => exact absurd rfl h
  | geom g f => cases g <;> rfl
  | _ => rfl

theorem rwWrite_fm_regs (h : r.owner ≠ some .fm) : (rwWrite s v r).fm.regs = s.fm.regs := by
  cases r with
  | fmTiMode | fmTiDepth | fmL1bCells | fmL1dCells => exact absurd rfl h
  | geom g f =>
    cases g with
    | fm => exact absurd rfl h
    | fi | tr => rfl
  | _ => rfl

theorem rwWrite_fi_regs (h : r.owner ≠ some .fi) : (rwWrite s v r).fi.regs = s.fi.regs := by
  cases r with
  | fiMode => exact absurd rfl h
  | geom g f =>
    cases g with
    | fi => exact absurd rfl h
    | fm | tr => rfl
  | _ => rfl

theorem rwWrite_tr_regs (h : r.owner ≠ some .tr) : (rwWrite s v r).tr.regs = s.tr.regs := by
  cases r with
  | trPaprMode | trNumIter | trVclip | trShiftOffset => exact absurd rfl h
  | geom g f =>
    cases g with
    | tr => exact absurd rfl h
    | fm | fi => rfl
  | _ => rfl

/-- A unit that does not own the register is as ready as before. -/
theorem ready_rwWrite {u : UnitId} (h : r.owner ≠ some u) : Ready (rwWrite s v r) u ↔ Ready s u := by
  rw [rwWrite_eq]
  cases u with
  | bch => simp only [Ready, rwWrite_bch_regs h]
  | ldpc => simp only [Ready, rwWrite_ldpc_regs h]
  | bil => simp only [Ready, rwWrite_bil_regs h]
  | fm => simp only [Ready, rwWrite_fm_regs h]
  | fi => simp only [Ready, rwWrite_fi_regs h]
  | tr => simp only [Ready, rwWrite_tr_regs h]

theorem bitOutItems_rwWrite (q : BitOut) : bitOutItems (rwWrite s v r) q = bitOutItems s q := by
  rw [rwWrite_eq]
  cases q <;> rfl

/-- The flag may be cleared before the write. -/
theorem clearOwner_rwWrite (o : Option UnitId) : (rwWrite s v r).clearOwner o = rwWrite (s.clearOwner o) v r := by
  cases o with
  | none => rfl
  | some u =>
    cases r with
    | geom g f => cases g <;> rfl
    | _ => rfl

end

/-! ## The host's actions -/

section
variable {s : State} (h : Inv s)
include h

theorem Inv.clearOwner (o : Option UnitId) : Inv (s.clearOwner o) := by
  cases o with
  | none => exact h
  | some u => exact h.clearBuilt u

/-- A register may be written while its unit is not built. -/
theorem Inv.rwWrite {r : RwReg} (hb : ∀ u, r.owner = some u → s.isBuilt u = false) (v : Word) :
    Inv (Machine.rwWrite s v r) := by
  have hstatus : (Machine.rwWrite s v r).status = s.status := rwWrite_status s v r
  refine .of_ready ?_ ?_ (fun u hu => ?_) ((outputBitsOk_congr bitOutItems_rwWrite).2 h.outputs)
  · rw [statusReservedZero, hstatus]
    exact h.reserved
  · refine (errorRecordOk_congr (rwWrite_errinfo ..) (rwWrite_errval ..) fun e => ?_).2 h.record
    rw [State.hasError, State.hasError, hstatus]
  · have hsu : s.isBuilt u = true := by rwa [State.isBuilt, hstatus] at hu
    exact (ready_rwWrite fun ho => by simp [hb u ho] at hsu).2 (h.ready hsu)

theorem Inv.regWrite (i : BitVec 8) (v : Word) : Inv (Machine.regWrite i v s) := by
  unfold Machine.regWrite
  split
  · next r _ =>
    rw [clearOwner_rwWrite]
    exact (h.clearOwner r.owner).rwWrite (fun u hu => by simp [hu, State.clearOwner, isBuilt_clearBuilt]) v
  · exact h
  · exact h.raise .badReg (by decide) _
  · exact h.raise .badReg (by decide) _

theorem Inv.answer (result : HostResult) : Inv (Machine.answer result s) := h.with_host _

theorem Inv.pushBits (q : BitIn) (items : List Byte) : Inv (Machine.pushBits q items s) := by
  cases q with
  | bch => exact h.with_bch h.built.bch (h.outputs .bch)
  | ldpc => exact h.with_ldpc h.built.ldpc (h.outputs .ldpc)
  | bil => exact h.with_bil h.built.bil (h.outputs .bil)

theorem Inv.pushCells (q : CellIn) (items : List Cell) : Inv (Machine.pushCells q items s) := by
  cases q with
  | fmL1b | fmL1d | fmPlp => exact h.with_fm h.built.fm (h.outputs .fmL1b)
  | fi => exact h.with_fi h.built.fi h.index.1
  | tr => exact h.with_tr h.built.tr h.index.2

theorem Inv.dropBits (q : BitOut) (m : Nat) : Inv (Machine.dropBits q m s) := by
  have hdrop (x : Byte) (hx : x ∈ (bitOutItems s q).drop m) : isBitItem x = true :=
    h.outputs q x (List.mem_of_mem_drop hx)
  cases q with
  | bch => exact h.with_bch h.built.bch hdrop
  | ldpc => exact h.with_ldpc h.built.ldpc hdrop
  | bil => exact h.with_bil h.built.bil hdrop
  | fmL1b => exact h.with_fm h.built.fm hdrop

theorem Inv.dropCells (q : CellOut) (m : Nat) : Inv (Machine.dropCells q m s) := by
  cases q with
  | fm => exact h.with_fm h.built.fm (h.outputs .fmL1b)
  | fi => exact h.with_fi h.built.fi h.index.1
  | tr => exact h.with_tr h.built.tr h.index.2

theorem Inv.perform (a : HostAction) : Inv (Machine.perform a s) := by
  cases a with
  | regRead i => exact h.answer _
  | regWrite i v => exact h.regWrite i v
  | pushBits q items => exact h.pushBits q items
  | pushCells q items => exact h.pushCells q items
  | popBits q m => exact (h.answer _).dropBits q m
  | popCells q m => exact (h.answer _).dropCells q m

end

/-! ## Bit items that leave a unit (20_memory.md R72) -/

theorem isBitItem_of_mem_bchSuffix {p : Params} {d : BchDerived} {blk : List Byte} {x : Byte}
    (hx : x ∈ bchSuffix p d blk) : isBitItem x = true := by
  unfold bchSuffix at hx
  split at hx
  · cases hx
  · exact isBitItem_of_mem_emitMsb hx
  · exact isBitItem_of_mem_emitMsb hx

theorem isBitItem_of_mem_ldpcCodeword (lut : List (List Nat)) {blk : List Byte}
    (hblk : ∀ x ∈ blk, isBitItem x = true) : ∀ x ∈ ldpcCodeword lut blk, isBitItem x = true := by
  unfold ldpcCodeword
  induction lut generalizing blk with
  | nil => exact hblk
  | cons contrib lut ih =>
    refine ih fun x hx => ?_
    rcases List.mem_append.1 hx with hx | hx
    · exact hblk x hx
    · rw [List.mem_singleton.1 hx]
      exact isBitItem_bitItem _

theorem isBitItem_of_mem_gather (idx : List Nat) {blk : List Byte} (hblk : ∀ x ∈ blk, isBitItem x = true) :
    ∀ x ∈ gather 0x00#8 blk idx, isBitItem x = true := by
  intro x hx
  obtain ⟨i, -, rfl⟩ := List.mem_map.1 hx
  by_cases hi : i < blk.length
  · rw [List.getD_eq_getElem _ _ hi]
    exact hblk _ (List.getElem_mem hi)
  · rw [List.getD_eq_default _ _ (Nat.not_lt.1 hi)]
    decide

theorem all_isBitItem_emitMsb {n : Nat} (v : BitVec n) : (emitMsb v).all isBitItem = true :=
  List.all_eq_true.2 fun _ => isBitItem_of_mem_emitMsb

theorem all_isBitItem_l1bFieldBits (e : Enums) (l : L1Basic) : (l1bFieldBits e l).all isBitItem = true := by
  have hvariant : (l1bVariantBits e l).all isBitItem = true := by
    unfold l1bVariantBits
    split <;> simp only [List.all_append, all_isBitItem_emitMsb, Bool.and_self]
  unfold l1bFieldBits
  simp only [List.all_append, all_isBitItem_emitMsb, hvariant, Bool.and_self]

theorem isBitItem_of_mem_l1bBitsOf (p : Params) (l : L1Basic) : ∀ x ∈ l1bBitsOf p l, isBitItem x = true := by
  rw [← List.all_eq_true, l1bBitsOf, List.all_append, all_isBitItem_l1bFieldBits, all_isBitItem_emitMsb, Bool.and_self]

/-! ## The firings -/

/-- The configuration and the derived state of unit 6 are what its firings go by, and its symbol index advances with them
(10_state.md R47). -/
theorem trFire_iterate_symbols {u : TrUnit} (p : Params) (h : u.symidx.toNat < u.der.geom.symbols)
    (h2 : u.der.geom.symbols ≤ 2 ^ 16) (n : Nat) :
    ((trFire p)^[n] u).regs = u.regs ∧ ((trFire p)^[n] u).der = u.der ∧
      ((trFire p)^[n] u).symidx = BitVec.ofNat 32 (symbolAt u.der.geom u.symidx n) := by
  have hfire (x : TrUnit) : (trFire p x).regs = x.regs ∧ (trFire p x).der = x.der ∧
      (trFire p x).symidx = nextSymidx x.der.geom.symbols x.symidx := by
    by_cases hl : trEngaged x.der x.symidx.toNat = true <;> simp [trFire, hl]
  induction n with
  | zero => exact ⟨rfl, rfl, by simp [symbolAt_zero h]⟩
  | succ n ih =>
    obtain ⟨hregs, hder, hsym⟩ := ih
    obtain ⟨hregs', hder', hsym'⟩ := hfire ((trFire p)^[n] u)
    rw [Function.iterate_succ_apply']
    exact ⟨hregs'.trans hregs, hder'.trans hder, by rw [hsym', hder, hsym, nextSymidx_symbolAt h h2]⟩

/-- A configured frame has a symbol. -/
theorem symbols_pos_of_geomConfigOk {t : Tables} {p : Params} {g : GeomRegs} {k : GeomKey} {geo : Geometry}
    (h : GeomConfigOk t p g k geo) : 0 < geo.symbols := by
  have hpre := h.somePreamble
  rw [h.numPreambleSyms] at hpre
  rw [h.wf.symbols]
  omega

section
variable {s : State} (h : Inv s) {n : Nat}
include h

theorem Inv.bchFire (hbad : hasBadItem s.bch.inq (n * s.bch.der.kbch) = false) :
    Inv { s with bch := (Machine.bchFire s.params)^[n] s.bch } := by
  obtain ⟨reg, crc, hfire⟩ := bchFire_iterate s.params s.bch n
  rw [hfire]
  refine h.with_bch h.built.bch (isBitItem_of_mem_append_blocks (h.outputs .bch) hbad
    (f := fun blk => blk ++ bchSuffix s.params s.bch.der blk) fun blk hblk x hx => ?_)
  exact (List.mem_append.1 hx).elim (hblk x) isBitItem_of_mem_bchSuffix

theorem Inv.ldpcFire (hbad : hasBadItem s.ldpc.inq (n * s.ldpc.der.nbch) = false) :
    Inv { s with ldpc := Machine.ldpcFire^[n] s.ldpc } := by
  rw [ldpcFire_iterate]
  exact h.with_ldpc h.built.ldpc
    (isBitItem_of_mem_append_blocks (h.outputs .ldpc) hbad fun _ => isBitItem_of_mem_ldpcCodeword _)

theorem Inv.bilFire (hbad : hasBadItem s.bil.inq (n * s.bil.der.n) = false) :
    Inv { s with bil := Machine.bilFire^[n] s.bil } := by
  rw [bilFire_iterate]
  exact h.with_bil h.built.bil
    (isBitItem_of_mem_append_blocks (h.outputs .bil) hbad
      (f := fun blk => gather 0x00#8 blk s.bil.der.perm) fun _ => isBitItem_of_mem_gather _)

theorem Inv.fmL1b : Inv { s with fm := { s.fm with l1bOut := s.fm.l1bOut ++ l1bBitsOf s.params s.fm.l1 } } :=
  h.with_fm h.built.fm (List.forall_mem_append.2 ⟨h.outputs .fmL1b, isBitItem_of_mem_l1bBitsOf _ _⟩)

theorem Inv.fmFire : Inv { s with fm := Machine.fmFire^[n] s.fm } := by
  rw [fmFire_iterate]
  exact h.with_fm h.built.fm (h.outputs .fmL1b)

theorem Inv.fiFire (hb : s.isBuilt .fi = true) : Inv { s with fi := Machine.fiFire^[n] s.fi } := by
  have hidx := h.index.1 hb
  have hsym := fi_symbols_le h.built hb
  rw [fiFire_iterate hidx hsym]
  refine h.with_fi h.built.fi fun _ => ?_
  rw [toNat_ofNat_symbolAt hidx hsym]
  exact symbolAt_lt hidx n

theorem Inv.trFire (hb : s.isBuilt .tr = true) : Inv { s with tr := (Machine.trFire s.params)^[n] s.tr } := by
  have hidx := h.index.2 hb
  have hsym := tr_symbols_le h.built hb
  obtain ⟨hregs, hder, hsymidx⟩ := trFire_iterate_symbols s.params hidx hsym n
  refine h.with_tr (fun _ => ?_) fun _ => ?_
  · rw [hregs, hder]
    exact h.built.tr hb
  · rw [hder, hsymidx, toNat_ofNat_symbolAt hidx hsym]
    exact symbolAt_lt hidx n

/-! ## The BUILD commands -/

theorem Inv.fiInstall {d : FiDerived} (hd : fiDerive s.tables s.params s.fi.regs = some d) :
    Inv (Machine.fiInstall d s) ∧ Ready (Machine.fiInstall d s) .fi := by
  have hpos : 0 < d.geom.symbols := by
    obtain ⟨k, geo, nr, hg, -, -, rfl⟩ := (fiDerive_eq_some_iff ..).1 hd
    exact symbols_pos_of_geomConfigOk hg
  exact ⟨h.with_fi (fun _ => hd) fun _ => hpos, hd, hpos⟩

theorem Inv.trInstall {d : TrDerived} (hd : trDerive s.tables s.params s.tr.regs = some d) :
    Inv (Machine.trInstall d s) ∧ Ready (Machine.trInstall d s) .tr := by
  have hpos : 0 < d.geom.symbols := by
    obtain ⟨k, geo, hg, -, rfl⟩ := (trDerive_eq_some_iff ..).1 hd
    exact symbols_pos_of_geomConfigOk hg
  exact ⟨h.with_tr (fun _ => hd) fun _ => hpos, hd, hpos⟩

/-! ## Commands and steps -/

/-- Every command answers a next state, and one with the invariant. -/
theorem Inv.exec (i : Instr) : ∃ t, Machine.exec i s = .next t ∧ Inv t := by
  cases i with
  | sysNop => exact ⟨s, rfl, h⟩
  | sysReset => exact ⟨_, rfl, inv_resetBlock s⟩
  | bchBuild =>
    exact ⟨_, rfl, h.building _ fun d hd => ⟨(h.clearBuilt .bch).with_bch (fun _ => hd) (h.outputs .bch), hd⟩⟩
  | bchEnc n => exact ⟨_, rfl, h.streaming _ fun _ _ hbad => h.bchFire hbad⟩
  | ldpcBuild =>
    exact ⟨_, rfl, h.building _ fun d hd => ⟨(h.clearBuilt .ldpc).with_ldpc (fun _ => hd) (h.outputs .ldpc), hd⟩⟩
  | ldpcEnc n => exact ⟨_, rfl, h.streaming _ fun _ _ hbad => h.ldpcFire hbad⟩
  | bilBuild =>
    exact ⟨_, rfl, h.building _ fun d hd => ⟨(h.clearBuilt .bil).with_bil (fun _ => hd) (h.outputs .bil), hd⟩⟩
  | bilPerm n => exact ⟨_, rfl, h.streaming _ fun _ _ hbad => h.bilFire hbad⟩
  | fmBuild =>
    exact ⟨_, rfl, h.building _ fun d hd => ⟨(h.clearBuilt .fm).with_fm (fun _ => hd) (h.outputs .fmL1b), hd⟩⟩
  | fmL1b => exact ⟨_, rfl, h.streaming _ fun _ _ _ => h.fmL1b⟩
  | fmL1d => exact ⟨_, rfl, h.raise .unimplemented UnitId.fm.number_le _⟩
  | fmMap n => exact ⟨_, rfl, h.streaming _ fun _ _ _ => h.fmFire⟩
  | fiBuild => exact ⟨_, rfl, h.building _ fun d hd => (h.clearBuilt .fi).fiInstall hd⟩
  | fiSym n => exact ⟨_, rfl, h.streaming _ fun hb _ _ => h.fiFire hb⟩
  | trBuild => exact ⟨_, rfl, h.building _ fun d hd => (h.clearBuilt .tr).trInstall hd⟩
  | trSym n => exact ⟨_, rfl, h.streaming _ fun hb _ _ => h.trFire hb⟩

theorem Inv.step {t : State} (ht : Machine.step s = .next t) : Inv t := by
  obtain ⟨-, rfl⟩ | ⟨a, rest, -, ⟨w, i, -, -, he⟩ | ⟨w, e, -, -, rfl⟩ | ⟨-, rfl⟩⟩ := step_cases ht
  · exact h
  · obtain ⟨t', ht', hinv⟩ := Inv.exec (s := s.withScript rest) (h.with_host _) i
    cases ht'.symm.trans he
    exact hinv
  · exact Inv.raise (s := s.withScript rest) (h.with_host _) .illegalCommand (by decide) w
  · exact Inv.perform (s := s.withScript rest) (h.with_host _) a

end

/-- Settles O19: case by case of what a step can do, each case keeps the parts of the invariant. -/
theorem stepKeepsInvariant : Obligations.StepKeepsInvariant := by
  unfold Obligations.StepKeepsInvariant
  exact fun _ _ h ht => h.step ht

end Sys2Proof.Machine
end

section
/-! SUPPORT. What the BUILD commands of units 2 and 5 install (40_system_commands.md R112). -/

namespace Sys2Proof.Machine

open Sys2Proof.Config

/-- An `LDPC.BUILD` that completes installs the derived state, sets the flag and starts the counter at 0. -/
theorem exec_ldpcBuild_of_some {s : State} {d : LdpcDerived} (h : ldpcDerive s.tables s.params s.ldpc.regs = some d) :
    exec .ldpcBuild s =
      .next { s with status := setFlag s.status 1, ldpc := { s.ldpc with der := d, blkcnt := 0#32 } } := by
  have hstatus : setFlag (clearFlag s.status 1) 1 = setFlag s.status 1 := setFlag_clearFlag ..
  rw [← hstatus, show exec .ldpcBuild s = execLdpcBuild s from rfl, execLdpcBuild, h, building_of_some]
  rfl

/-- An `FI.BUILD` that completes installs the derived state, sets the flag and starts the counters at 0; the generator's
register ends at its last value. -/
theorem exec_fiBuild_of_some {s : State} {d : FiDerived} (h : fiDerive s.tables s.params s.fi.regs = some d) :
    exec .fiBuild s =
      .next
        { s with
          status := setFlag s.status 4
          fi := { s.fi with der := d, symidx := 0#32, framecnt := 0#32, lfsr := fiLastRaw s.tables s.params d } } := by
  have hstatus : setFlag (clearFlag s.status 4) 4 = setFlag s.status 4 := setFlag_clearFlag ..
  rw [← hstatus, show exec .fiBuild s = execFiBuild s from rfl, execFiBuild, h, building_of_some]
  rfl

/-- The dimensions of a configuration that passes the checks are sane (42_ldpc.md R151 (c)). -/
theorem ldpcDimsOk_of_configOk {t : Tables} {p : Params} {u : LdpcRegs} {rows : List (List Nat)}
    (h : LdpcConfigOk t p u rows) : ldpcDimsOk (ldpcDimsOf p.enums u) (ldpcParityCount t p u) = true := by
  unfold ldpcDimsOf
  split
  · next htype =>
    obtain ⟨hq1, hq2, hm1, hm2, hsum⟩ := h.typeA htype
    simp [ldpcDimsOk, hq1, hq2, hm1, hm2, hsum]
  · next htype => simp [ldpcDimsOk, (h.typeB htype).1]

/-- The list of each parity bit is what the rows' addresses contribute to it (42_ldpc.md R152, R153). -/
theorem ldpcExpand_of_configOk {t : Tables} {p : Params} {u : LdpcRegs} {rows : List (List Nat)}
    (h : LdpcConfigOk t p u rows) :
    (ldpcExpand (ldpcDimsOf p.enums u) (ldpcParityCount t p u) rows).length = ldpcParityCount t p u ∧
      ∀ k, (ldpcExpand (ldpcDimsOf p.enums u) (ldpcParityCount t p u) rows).getD k [] =
        ldpcContributions (ldpcParityIndex p u (ldpcParityCount t p u)) rows k := by
  have hpos : 0 < ldpcParityCount t p u := Nat.sub_pos_of_lt h.room
  obtain ⟨hlen, hlists⟩ := ldpcExpand_spec _ _ rows (ldpcDimsOk_of_configOk h) hpos
  exact ⟨hlen, fun k => (hlists k).trans (by rw [ldpcTarget_ldpcDimsOf])⟩

/-- Settles O31: the derived state, with its lists by the formula of the configured type. -/
theorem ldpcBuildCompletes : Obligations.LdpcBuildCompletes := by
  unfold Obligations.LdpcBuildCompletes
  intro s rows hok horder u
  obtain ⟨hlen, hlists⟩ := ldpcExpand_of_configOk hok
  refine ⟨_, exec_ldpcBuild_of_some ((ldpcDerive_eq_some_iff ..).2 ⟨rows, hok, horder, rfl⟩), rfl, rfl, rfl, hlen,
    fun htype k _ => .of_eq ?_, fun htype k _ => .of_eq ?_⟩
  · rw [hlists]
    unfold ldpcParityIndex
    rw [htype]
  · rw [hlists]
    unfold ldpcParityIndex
    rw [htype]

/-- Settles O44: the derived state of a configuration that passes the checks, installed. -/
theorem fiBuildCompletes : Obligations.FiBuildCompletes := by
  unfold Obligations.FiBuildCompletes
  intro s k geo nr hgeom hgen hvectors
  have hd := (fiDerive_eq_some_iff ..).2 ⟨k, geo, nr, hgeom, hgen, hvectors, rfl⟩
  exact ⟨_, _, exec_fiBuild_of_some hd, rfl, rfl, rfl, rfl⟩

end Sys2Proof.Machine
end

section
/-! SUPPORT. A frame cut into its symbols (44_frame_mapper.md R197). -/

namespace Sys2Proof.Machine

open Sys2Proof.Config

/-- Consecutive pieces of a list, cut by their lengths, are the list's beginning. -/
theorem flatMap_pieces {α : Type} (q : List α) (sizes : List Nat) {m : Nat} (hm : m ≤ sizes.length) :
    (List.range m).flatMap (fun l => (q.drop (sizes.take l).sum).take (sizes.getD l 0)) = q.take (sizes.take m).sum := by
  induction m with
  | zero => simp
  | succ m ih =>
    have hsum : (sizes.take (m + 1)).sum = (sizes.take m).sum + sizes.getD m 0 := by
      rw [List.sum_take_succ _ _ hm, List.getD_eq_getElem _ _ hm]
    rw [flatMap_range_succ, ih (Nat.le_of_succ_le hm), hsum, List.take_add]

/-- A piece lies inside the list. -/
theorem sum_take_add_getD_le (sizes : List Nat) (l : Nat) : (sizes.take l).sum + sizes.getD l 0 ≤ sizes.sum := by
  rw [← List.sum_take_add_sum_drop sizes l]
  by_cases hl : l < sizes.length
  · rw [List.drop_eq_getElem_cons hl, List.sum_cons, List.getD_eq_getElem _ _ hl]
    omega
  · rw [List.getD_eq_default _ _ (Nat.not_lt.1 hl)]
    omega

theorem getElem?_eq_some_getD {α : Type} {l : List α} {i : Nat} (h : i < l.length) (dflt : α) :
    l[i]? = some (l.getD i dflt) := by
  rw [List.getElem?_eq_getElem h, List.getD_eq_getElem _ _ h]

/-- Settles O43: the placed cells number the frame's cells, and a well-formed record cuts them. -/
theorem frameKeepsItsGeometry : Obligations.FrameKeepsItsGeometry := by
  unfold Obligations.FrameKeepsItsGeometry
  intro t p u d a b c hd ha hb hc symbolCells
  obtain ⟨k, geo, hgeom, ⟨-, hfit⟩, rfl⟩ := (fmDerive_eq_some_iff ..).1 hd
  have hwf := hgeom.wf
  have hpos := symbols_pos_of_geomConfigOk hgeom
  obtain ⟨hcells, htypes, -⟩ := hwf.lengths
  have hplace : (fmPlace a b c).length = geo.totalCells := by
    simp only [fmPlace, List.length_append, ha, hb, hc]
    omega
  refine ⟨hwf.total, hplace, fun l hl => ?_, ?_, ?_, ?_⟩
  · have hle := sum_take_add_getD_le geo.frameCells l
    rw [hwf.total] at hle
    simp only [symbolCells, List.length_take, List.length_drop, hplace]
    omega
  · have hpieces := flatMap_pieces (fmPlace a b c) geo.frameCells hcells.ge
    rw [← hcells, List.take_length, hwf.total, ← hplace, List.take_length, hcells] at hpieces
    rw [← List.append_assoc]
    exact hpieces
  · have hfirst := (hwf.preambles 0 hpos).2 (hgeom.numPreambleSyms ▸ hgeom.somePreamble)
    rw [List.head?_eq_getElem?, getElem?_eq_some_getD (htypes ▸ hpos) .data, hfirst]
  · have hlast : geo.symbols - 1 < geo.symType.length := (Nat.sub_one_lt_of_lt hpos).trans_eq htypes.symm
    rw [List.getLast?_eq_getElem?, htypes, getElem?_eq_some_getD hlast .data, hwf.last]

end Sys2Proof.Machine
end

section
/-! SUPPORT. What a command of a unit does, said once (20_memory.md R79): it reads the table ROM, the parameters, its unit's
record and its unit's BUILT flag, and writes the unit's record and, by its verdict, `STATUS` and the error record. -/

namespace Sys2Proof.Machine

open Sys2Proof.Config

/-! ## The record of a unit -/

/-- The record a unit's state is held in. -/
def UnitId.Part : UnitId → Type
  | .bch => BchUnit
  | .ldpc => LdpcUnit
  | .bil => BilUnit
  | .fm => FmUnit
  | .fi => FiUnit
  | .tr => TrUnit

/-- The registers of a unit that the host alone writes: its configuration, and the L1-Basic record of unit 4. -/
def UnitId.Config : UnitId → Type
  | .bch => BchRegs
  | .ldpc => LdpcRegs
  | .bil => BilRegs
  | .fm => FmRegs × L1Basic
  | .fi => FiRegs
  | .tr => TrRegs

def UnitId.config : (u : UnitId) → u.Part → u.Config
  | .bch, x => BchUnit.regs x
  | .ldpc, x => LdpcUnit.regs x
  | .bil, x => BilUnit.regs x
  | .fm, x => (FmUnit.regs x, FmUnit.l1 x)
  | .fi, x => FiUnit.regs x
  | .tr, x => TrUnit.regs x

/-- The record of a unit in a state. -/
def State.part (s : State) : (u : UnitId) → u.Part
  | .bch => s.bch
  | .ldpc => s.ldpc
  | .bil => s.bil
  | .fm => s.fm
  | .fi => s.fi
  | .tr => s.tr

/-- The state with the record of a unit replaced. -/
def State.withPart (s : State) : (u : UnitId) → u.Part → State
  | .bch, x => { s with bch := x }
  | .ldpc, x => { s with ldpc := x }
  | .bil, x => { s with bil := x }
  | .fm, x => { s with fm := x }
  | .fi, x => { s with fi := x }
  | .tr, x => { s with tr := x }

section
variable (s : State) (u v : UnitId) (x : u.Part)

@[simp] theorem withPart_tables : (s.withPart u x).tables = s.tables := by cases u <;> rfl
@[simp] theorem withPart_params : (s.withPart u x).params = s.params := by cases u <;> rfl
@[simp] theorem withPart_status : (s.withPart u x).status = s.status := by cases u <;> rfl
@[simp] theorem withPart_errinfo : (s.withPart u x).errinfo = s.errinfo := by cases u <;> rfl
@[simp] theorem withPart_errval : (s.withPart u x).errval = s.errval := by cases u <;> rfl
@[simp] theorem withPart_host : (s.withPart u x).host = s.host := by cases u <;> rfl
@[simp] theorem withPart_part_same : (s.withPart u x).part u = x := by cases u <;> rfl
@[simp] theorem withPart_part : s.withPart u (s.part u) = s := by cases u <;> rfl

theorem setBuilt_withPart : (s.withPart u x).setBuilt v = (s.setBuilt v).withPart u x := by cases u <;> rfl

@[simp] theorem setBuilt_part : (s.setBuilt u).part v = s.part v := by cases v <;> rfl
@[simp] theorem clearBuilt_part : (s.clearBuilt u).part v = s.part v := by cases v <;> rfl

@[simp] theorem raise_part (e : ErrClass) (n : BitVec 4) (w : Word) : (raise e n w s).part v = s.part v := by
  unfold raise
  split <;> cases v <;> rfl

end

theorem withPart_part_of_ne {u v : UnitId} (h : v ≠ u) (s : State) (x : u.Part) :
    (s.withPart u x).part v = s.part v := by
  cases u <;> cases v <;> trivial

theorem withPart_comm {u v : UnitId} (h : u ≠ v) (s : State) (x : u.Part) (y : v.Part) :
    (s.withPart u x).withPart v y = (s.withPart v y).withPart u x := by
  cases u <;> cases v <;> trivial

/-! ## The verdict of a command -/

/-- What a command says of itself to `STATUS` and the error record (40_system_commands.md R111, R112). -/
inductive Verdict where
  /-- A streaming command that has fired. -/
  | fired
  /-- A command that raises an error and does nothing else. -/
  | failed (e : ErrClass)
  /-- A BUILD whose configuration fails a check. -/
  | refused
  /-- A BUILD that completes. -/
  | built

/-- The state with the verdict of a command of unit `u` and word `w` recorded. -/
def Verdict.apply (u : UnitId) (w : Word) : Verdict → State → State
  | .fired, s => s
  | .failed e, s => raise e u.number w s
  | .refused, s => raise .cfgError u.number w (s.clearBuilt u)
  | .built, s => (s.clearBuilt u).setBuilt u

section
variable (u v : UnitId) (w : Word) (c : Verdict) (s : State)

@[simp] theorem verdict_tables : (c.apply u w s).tables = s.tables := by cases c <;> simp [Verdict.apply]
@[simp] theorem verdict_params : (c.apply u w s).params = s.params := by cases c <;> simp [Verdict.apply]
@[simp] theorem verdict_host : (c.apply u w s).host = s.host := by cases c <;> simp [Verdict.apply]
@[simp] theorem verdict_part : (c.apply u w s).part v = s.part v := by cases c <;> simp [Verdict.apply]

end

theorem isBuilt_verdict_of_ne {u v : UnitId} (h : v ≠ u) (w : Word) (c : Verdict) (s : State) :
    (c.apply u w s).isBuilt v = s.isBuilt v := by
  cases c <;> simp [Verdict.apply, isBuilt_raise, isBuilt_setBuilt, isBuilt_clearBuilt, h]

/-! ## Commands are local to their units -/

/-- Two states that agree in all a command of unit `u` reads. -/
structure SameView (u : UnitId) (s s' : State) : Prop where
  tables : s'.tables = s.tables
  params : s'.params = s.params
  part : s'.part u = s.part u
  built : s'.isBuilt u = s.isBuilt u

theorem SameView.refl (u : UnitId) (s : State) : SameView u s s := ⟨rfl, rfl, rfl, rfl⟩

/-- `f` acts from `s` as a command of unit `u` may: one verdict and one new record of the unit, with the registers as they
were, describe it from every state that looks like `s` to the unit. -/
def ActsOn (u : UnitId) (w : Word) (s : State) (f : State → Host.Outcome State Fault Refusal) : Prop :=
  ∃ (c : Verdict) (x : u.Part), u.config x = u.config (s.part u) ∧
    ∀ t, SameView u s t → f t = .next ((c.apply u w t).withPart u x)

section
variable {u : UnitId} {w : Word} {s : State}

theorem ActsOn.congr {f g : State → Host.Outcome State Fault Refusal} (hg : ActsOn u w s g)
    (h : ∀ t, SameView u s t → f t = g t) : ActsOn u w s f := by
  obtain ⟨c, x, hx, hact⟩ := hg
  exact ⟨c, x, hx, fun t ht => (h t ht).trans (hact t ht)⟩

/-- A verdict alone leaves the unit's record as it was. -/
theorem actsOn_verdict (c : Verdict) : ActsOn u w s fun t => .next (c.apply u w t) := by
  refine ⟨c, s.part u, rfl, fun t ht => ?_⟩
  rw [← ht.part, ← verdict_part u u w c t, withPart_part]

/-- A streaming command whose checks and firings go by its unit's record and the parameters. -/
theorem actsOn_streaming (short bad : u.Part → Bool) (fire : Params → u.Part → u.Part)
    (hfire : ∀ p x, u.config (fire p x) = u.config x) :
    ActsOn u w s fun t => .next (streaming u w (short (t.part u)) (bad (t.part u))
      (fun t => t.withPart u (fire t.params (t.part u))) t) := by
  cases hbuilt : s.isBuilt u with
  | false =>
    refine (actsOn_verdict (.failed .notBuilt)).congr fun t ht => ?_
    rw [streaming_of_not_built (ht.built.trans hbuilt), Verdict.apply]
  | true =>
    cases hshort : short (s.part u) with
    | true =>
      refine (actsOn_verdict (.failed .underrun)).congr fun t ht => ?_
      rw [ht.part, hshort, streaming_of_short (ht.built.trans hbuilt), Verdict.apply]
    | false =>
      cases hbad : bad (s.part u) with
      | true =>
        refine (actsOn_verdict (.failed .badItem)).congr fun t ht => ?_
        rw [ht.part, hshort, hbad, streaming_of_bad (ht.built.trans hbuilt), Verdict.apply]
      | false =>
        refine ⟨.fired, fire s.params (s.part u), hfire .., fun t ht => ?_⟩
        beta_reduce
        rw [ht.part, hshort, hbad, streaming_of_ready (ht.built.trans hbuilt), ht.part, ht.params, Verdict.apply]

/-- A BUILD whose checks and derived state go by the table ROM, the parameters and its unit's record. -/
theorem actsOn_building {δ : Type} (derive : Tables → Params → u.Part → Option δ)
    (install : Tables → Params → δ → u.Part → u.Part)
    (hinstall : ∀ t p d x, u.config (install t p d x) = u.config x) :
    ActsOn u w s fun t => .next (building u w (derive t.tables t.params (t.part u))
      (fun d t => t.withPart u (install t.tables t.params d (t.part u))) t) := by
  cases hder : derive s.tables s.params (s.part u) with
  | none =>
    refine (actsOn_verdict .refused).congr fun t ht => ?_
    rw [ht.tables, ht.params, ht.part, hder, building_of_none, Verdict.apply]
  | some d =>
    refine ⟨.built, install s.tables s.params d (s.part u), hinstall .., fun t ht => ?_⟩
    beta_reduce
    rw [ht.tables, ht.params, ht.part, hder, building_of_some, clearBuilt_tables, clearBuilt_params, clearBuilt_part,
      ht.tables, ht.params, ht.part, Verdict.apply, setBuilt_withPart]

end

theorem config_iterate (u : UnitId) {fire : u.Part → u.Part} (h : u.config ∘ fire = u.config) (n : Nat) (x : u.Part) :
    u.config (fire^[n] x) = u.config x :=
  congrFun (Function.iterate_invariant h n) x

theorem regs_trFire (p : Params) : TrUnit.regs ∘ trFire p = TrUnit.regs := by
  funext x
  simp only [Function.comp, trFire]
  split <;> rfl

/-- 20_memory.md R79: a command of a unit is local to it. -/
theorem actsOn_exec (s : State) : ∀ {i : Instr} {u : UnitId}, i.unit = some u → ActsOn u (encode i) s (exec i)
  | .bchBuild, _, rfl =>
    actsOn_building (u := .bch) (fun t p (x : BchUnit) => bchDerive t p x.regs)
      (fun _ _ d (x : BchUnit) => { x with der := d, blkcnt := 0#32 }) fun _ _ _ _ => rfl
  | .bchEnc n, _, rfl =>
    actsOn_streaming (u := .bch) (fun (x : BchUnit) => x.inq.length < n * x.der.kbch)
      (fun (x : BchUnit) => hasBadItem x.inq (n * x.der.kbch)) (fun p => (bchFire p)^[n])
      fun p => config_iterate .bch (fire := bchFire p) rfl n
  | .ldpcBuild, _, rfl =>
    actsOn_building (u := .ldpc) (fun t p (x : LdpcUnit) => ldpcDerive t p x.regs)
      (fun _ _ d (x : LdpcUnit) => { x with der := d, blkcnt := 0#32 }) fun _ _ _ _ => rfl
  | .ldpcEnc n, _, rfl =>
    actsOn_streaming (u := .ldpc) (fun (x : LdpcUnit) => x.inq.length < n * x.der.nbch)
      (fun (x : LdpcUnit) => hasBadItem x.inq (n * x.der.nbch)) (fun _ => ldpcFire^[n])
      fun _ => config_iterate .ldpc (fire := ldpcFire) rfl n
  | .bilBuild, _, rfl =>
    actsOn_building (u := .bil) (fun t p (x : BilUnit) => bilDerive t p x.regs)
      (fun _ _ d (x : BilUnit) => { x with der := d, blkcnt := 0#32 }) fun _ _ _ _ => rfl
  | .bilPerm n, _, rfl =>
    actsOn_streaming (u := .bil) (fun (x : BilUnit) => x.inq.length < n * x.der.n)
      (fun (x : BilUnit) => hasBadItem x.inq (n * x.der.n)) (fun _ => bilFire^[n])
      fun _ => config_iterate .bil (fire := bilFire) rfl n
  | .fmBuild, _, rfl =>
    actsOn_building (u := .fm) (fun t p (x : FmUnit) => fmDerive t p x.regs)
      (fun _ _ d (x : FmUnit) => { x with der := d, framecnt := 0#32 }) fun _ _ _ _ => rfl
  | .fmL1b, _, rfl =>
    actsOn_streaming (u := .fm) (fun _ => false) (fun _ => false)
      (fun p (x : FmUnit) => { x with l1bOut := x.l1bOut ++ l1bBitsOf p x.l1 }) fun _ _ => rfl
  | .fmL1d, _, rfl => actsOn_verdict (.failed .unimplemented)
  | .fmMap n, _, rfl =>
    actsOn_streaming (u := .fm) (fmShort n) (fun _ => false) (fun _ => fmFire^[n])
      fun _ => config_iterate .fm (fire := fmFire) rfl n
  | .fiBuild, _, rfl =>
    actsOn_building (u := .fi) (fun t p (x : FiUnit) => fiDerive t p x.regs)
      (fun t p d (x : FiUnit) => { x with der := d, symidx := 0#32, framecnt := 0#32, lfsr := fiLastRaw t p d })
      fun _ _ _ _ => rfl
  | .fiSym n, _, rfl =>
    actsOn_streaming (u := .fi) (fun (x : FiUnit) => x.inq.length < fiNeed x.der.geom n x.symidx) (fun _ => false)
      (fun _ => fiFire^[n]) fun _ => config_iterate .fi (fire := fiFire) rfl n
  | .trBuild, _, rfl =>
    actsOn_building (u := .tr) (fun t p (x : TrUnit) => trDerive t p x.regs)
      (fun _ _ d (x : TrUnit) => { x with der := d, symidx := 0#32, framecnt := 0#32 }) fun _ _ _ _ => rfl
  | .trSym n, _, rfl =>
    actsOn_streaming (u := .tr) (fun (x : TrUnit) => x.inq.length < n * x.der.n) (fun _ => false)
      (fun p => (trFire p)^[n]) fun p => config_iterate .tr (fire := trFire p) (regs_trFire p) n

/-! ## The frame of a command -/

/-- What a command of unit `u` leaves as it was. -/
structure FrameOf (u : UnitId) (s t : State) : Prop where
  tables : t.tables = s.tables
  params : t.params = s.params
  host : t.host = s.host
  config : ∀ v : UnitId, v.config (t.part v) = v.config (s.part v)
  part : ∀ v, v ≠ u → t.part v = s.part v
  built : ∀ v, v ≠ u → t.isBuilt v = s.isBuilt v

theorem frameOf_verdict {u : UnitId} (c : Verdict) (w : Word) {s : State} {x : u.Part}
    (hx : u.config x = u.config (s.part u)) : FrameOf u s ((c.apply u w s).withPart u x) := by
  have hpart (v : UnitId) (hv : v ≠ u) : ((c.apply u w s).withPart u x).part v = s.part v := by
    rw [withPart_part_of_ne hv, verdict_part]
  refine ⟨by simp, by simp, by simp, fun v => ?_, hpart, fun v hv => ?_⟩
  · by_cases hv : v = u
    · subst hv
      rw [withPart_part_same, hx]
    · rw [hpart v hv]
  · rw [State.isBuilt, withPart_status, ← State.isBuilt, isBuilt_verdict_of_ne hv]

/-- A command of another unit does not change what a command of unit `v` reads. -/
theorem FrameOf.sameView {u v : UnitId} {s t : State} (h : FrameOf u s t) (hv : v ≠ u) : SameView v s t :=
  ⟨h.tables, h.params, h.part v hv, h.built v hv⟩

theorem frameOf_exec {i : Instr} {u : UnitId} {s t : State} (hi : i.unit = some u) (ht : exec i s = .next t) :
    FrameOf u s t := by
  obtain ⟨c, x, hx, hact⟩ := actsOn_exec s hi
  cases (hact s (.refl u s)).symm.trans ht
  exact frameOf_verdict c (encode i) hx

/-- Settles O20: the frame of a command, unit by unit. -/
theorem commandTouchesItsUnitOnly : Obligations.CommandTouchesItsUnitOnly := by
  unfold Obligations.CommandTouchesItsUnitOnly
  intro i u s t hi ht
  have h := frameOf_exec hi ht
  have hfm : (t.fm.regs, t.fm.l1) = (s.fm.regs, s.fm.l1) := h.config .fm
  exact ⟨fun hu => h.part .bch hu.symm, fun hu => h.part .ldpc hu.symm, fun hu => h.part .bil hu.symm,
    fun hu => h.part .fm hu.symm, fun hu => h.part .fi hu.symm, fun hu => h.part .tr hu.symm, h.built, h.tables, h.params,
    h.host, h.config .bch, h.config .ldpc, h.config .bil, congrArg Prod.fst hfm, congrArg Prod.snd hfm, h.config .fi,
    h.config .tr⟩

end Sys2Proof.Machine
end

section
/-! SUPPORT. Commands of different units commute (20_memory.md R79): they write different records, and of `STATUS` each may
clear its own BUILT flag alone. -/

namespace Sys2Proof.Machine

/-! ## The flags a verdict writes -/

theorem setFlag_comm (w : Word) (j k : Nat) : setFlag (setFlag w j) k = setFlag (setFlag w k) j := by
  rw [setFlag, setFlag, setFlag, setFlag, BitVec.or_assoc, BitVec.or_comm (1#32 <<< j), ← BitVec.or_assoc]

theorem clearFlag_comm (w : Word) (j k : Nat) : clearFlag (clearFlag w j) k = clearFlag (clearFlag w k) j := by
  rw [clearFlag, clearFlag, clearFlag, clearFlag, BitVec.and_assoc, BitVec.and_comm (~~~_), ← BitVec.and_assoc]

theorem setFlag_clearFlag_of_ne (w : Word) {j k : Nat} (h : j ≠ k) :
    setFlag (clearFlag w j) k = clearFlag (setFlag w k) j := by
  refine BitVec.eq_of_getLsbD_eq fun b hb => ?_
  simp only [getLsbD_setFlag, getLsbD_clearFlag]
  by_cases hbk : b = k
  · simp [hbk, h.symm]
  · simp [hbk]

theorem builtBit_ne {u v : UnitId} (h : u ≠ v) : u.builtBit ≠ v.builtBit := by
  cases u <;> cases v <;> trivial

theorem builtBit_ne_statusBit (u : UnitId) (e : ErrClass) : u.builtBit ≠ e.statusBit := by
  cases u <;> cases e <;> decide

/-- What the verdict of a command of unit `u` makes of `STATUS`. -/
def Verdict.flags (u : UnitId) : Verdict → Word → Word
  | .fired, w => w
  | .failed e, w => setFlag w e.statusBit
  | .refused, w => setFlag (clearFlag w u.builtBit) ErrClass.cfgError.statusBit
  | .built, w => setFlag w u.builtBit

theorem flags_setFlag {u : UnitId} {k : Nat} (h : u.builtBit ≠ k) (c : Verdict) (w : Word) :
    c.flags u (setFlag w k) = setFlag (c.flags u w) k := by
  cases c with
  | fired => rfl
  | failed e => exact setFlag_comm ..
  | refused => rw [Verdict.flags, Verdict.flags, ← setFlag_clearFlag_of_ne w h, setFlag_comm]
  | built => exact setFlag_comm ..

theorem flags_clearFlag {u v : UnitId} (h : u ≠ v) (c : Verdict) (w : Word) :
    c.flags u (clearFlag w v.builtBit) = clearFlag (c.flags u w) v.builtBit := by
  cases c with
  | fired => rfl
  | failed e => exact setFlag_clearFlag_of_ne _ (builtBit_ne_statusBit v e)
  | refused =>
    rw [Verdict.flags, Verdict.flags, clearFlag_comm, setFlag_clearFlag_of_ne _ (builtBit_ne_statusBit v _)]
  | built => exact setFlag_clearFlag_of_ne _ (builtBit_ne h.symm)

/-- The verdicts of commands of different units write `STATUS` in either order. -/
theorem flags_comm {u v : UnitId} (h : u ≠ v) (c d : Verdict) (w : Word) :
    c.flags u (d.flags v w) = d.flags v (c.flags u w) := by
  cases d with
  | fired => rfl
  | failed e => exact flags_setFlag (builtBit_ne_statusBit u e) c w
  | refused =>
    rw [Verdict.flags, Verdict.flags, flags_setFlag (builtBit_ne_statusBit u _), flags_clearFlag h]
  | built => exact flags_setFlag (builtBit_ne h) c w

/-! ## Verdicts that record no error -/

/-- An error that leaves `ERRINFO` as it was is not the first. -/
theorem errCode_ne_zero_of_raise {e : ErrClass} {n : BitVec 4} {w : Word} {s : State}
    (h : (raise e n w s).errinfo = s.errinfo) : s.errCode ≠ 0#4 := by
  intro hcode
  rw [raise_of_first hcode] at h
  have hrec : s.errCode = e.code := by
    rw [State.errCode, ← h]
    exact (errinfo_fields n e.code).1
  exact e.code_ne_zero (hrec.symm.trans hcode)

/-- A verdict that leaves the error record as it was writes `STATUS` alone, from every state with that record. -/
theorem verdict_of_errinfo {u : UnitId} {w : Word} {c : Verdict} {s t : State}
    (h : (c.apply u w s).errinfo = s.errinfo) (ht : t.errinfo = s.errinfo) :
    c.apply u w t = { t with status := c.flags u t.status } := by
  have hcode : t.errCode = s.errCode := by rw [State.errCode, ht, State.errCode]
  cases c with
  | fired => rfl
  | failed e => exact raise_of_later (hcode.trans_ne (errCode_ne_zero_of_raise h))
  | refused =>
    have hs : s.errCode ≠ 0#4 := errCode_ne_zero_of_raise (s := s.clearBuilt u) h
    exact raise_of_later (s := t.clearBuilt u) (hcode.trans_ne hs)
  | built =>
    rw [Verdict.flags, ← setFlag_clearFlag]
    rfl

/-- The state with one unit's record replaced and `STATUS` rewritten. -/
def State.patch (s : State) (u : UnitId) (x : u.Part) (g : Word → Word) : State :=
  ({ s with status := g s.status }).withPart u x

theorem patch_patch (s : State) (u v : UnitId) (x : u.Part) (y : v.Part) (g g' : Word → Word) :
    (s.patch u x g).patch v y g' = (({ s with status := g' (g s.status) }).withPart u x).withPart v y := by
  cases u <;> rfl

theorem patch_comm {u v : UnitId} (h : u ≠ v) {g g' : Word → Word} (hg : ∀ w, g' (g w) = g (g' w)) (s : State)
    (x : u.Part) (y : v.Part) : (s.patch u x g).patch v y g' = (s.patch v y g').patch u x g := by
  rw [patch_patch, patch_patch, hg, withPart_comm h]

/-- A command that leaves the error record as it was patches its unit's record and `STATUS`, and the same way from every
state that it cannot tell from this one. -/
theorem exec_eq_patch {i : Instr} {u : UnitId} {s a : State} (hi : i.unit = some u) (ha : exec i s = .next a)
    (he : a.errinfo = s.errinfo) :
    ∃ (c : Verdict) (x : u.Part), ∀ t, SameView u s t → t.errinfo = s.errinfo →
      exec i t = .next (t.patch u x (c.flags u)) := by
  obtain ⟨c, x, -, hact⟩ := actsOn_exec s hi
  cases (hact s (.refl u s)).symm.trans ha
  rw [withPart_errinfo] at he
  refine ⟨c, x, fun t ht hinfo => ?_⟩
  rw [hact t ht, verdict_of_errinfo he hinfo, State.patch]

/-- Settles O21: each command acts on the other's outcome as on the state itself, and the two patches commute. -/
theorem commandsOfDifferentUnitsCommute : Obligations.CommandsOfDifferentUnitsCommute := by
  unfold Obligations.CommandsOfDifferentUnitsCommute
  intro i j u v s a b hi hj huv ha hb hea heb
  have hva : SameView v s a := (frameOf_exec hi ha).sameView huv.symm
  have hub : SameView u s b := (frameOf_exec hj hb).sameView huv
  obtain ⟨c, x, hexec⟩ := exec_eq_patch hi ha hea
  obtain ⟨d, y, hexec'⟩ := exec_eq_patch hj hb heb
  refine ⟨_, hexec' a hva hea, (hexec b hub heb).trans ?_⟩
  cases (hexec s (.refl u s) rfl).symm.trans ha
  cases (hexec' s (.refl v s) rfl).symm.trans hb
  rw [patch_comm huv (flags_comm huv.symm d c)]

end Sys2Proof.Machine
end

section
/-! SUPPORT. Errors are sticky (60_exceptions.md R301): the flags and the record after a step that is not `SYS.RESET`,
and the table ROM and the parameters after every step (20_memory.md R82). -/

namespace Sys2Proof

/-- A row of the opcode map gives the commands whose words have the row's `unit` and `op`. -/
def OpRow.Encodes (unit op : Nat) : OpRow → Prop
  | .plain i => encode i = packWord unit op 0
  | .counted mk => ∀ n, encode (mk n) = packWord unit op n

theorem opRow_encodes {unit op : Nat} {row : OpRow} (h : opRow unit op = .ok row) : row.Encodes unit op := by
  unfold opRow at h
  split at h
  case h_17 => split at h <;> cases h
  all_goals
    cases h
    simp [OpRow.Encodes, encode]

/-- A word is its four fields (30_encoding.md R91). -/
theorem packWord_fields {w : Word} (h : fieldZero w = 0) : packWord (fieldUnit w) (fieldOp w) (fieldCount w) = w := by
  have hzero : w.extractLsb' 16 8 = 0#8 := BitVec.eq_of_toNat_eq h
  rw [packWord, fieldUnit, fieldOp, fieldCount, ← hzero]
  simp only [BitVec.ofNat_toNat, BitVec.setWidth_eq]
  rw [BitVec.extractLsb'_append_extractLsb'_eq_extractLsb' (by rfl),
    BitVec.extractLsb'_append_extractLsb'_eq_extractLsb' (by rfl),
    BitVec.extractLsb'_append_extractLsb'_eq_extractLsb' (by rfl), BitVec.extractLsb'_eq_self]

/-- A word that decodes is the word of its command. -/
theorem encode_of_decode {w : Word} {i : Instr} (h : decode w = .ok i) : encode i = w := by
  unfold decode at h
  split at h
  · cases h
  · next row hrow =>
    have hrow := opRow_encodes hrow
    split at h
    · cases h
    · next hzero =>
      have hw := packWord_fields (not_not.1 hzero)
      split at h
      · cases h
        exact (hrow _).trans hw
      · split at h
        · cases h
        · next hcount =>
          cases h
          rw [not_not.1 hcount] at hw
          exact hrow.trans hw

end Sys2Proof

namespace Sys2Proof.Machine

/-- No error flag is cleared, a recorded error stays on record, and the table ROM and the parameters are as they were. -/
structure Sticky (s t : State) : Prop where
  tables : t.tables = s.tables
  params : t.params = s.params
  flags : ∀ e : ErrClass, s.hasError e = true → t.hasError e = true
  record : s.errCode ≠ 0#4 → t.errinfo = s.errinfo ∧ t.errval = s.errval

theorem Sticky.trans {r s t : State} (h : Sticky r s) (h' : Sticky s t) : Sticky r t where
  tables := h'.tables.trans h.tables
  params := h'.params.trans h.params
  flags e he := h'.flags e (h.flags e he)
  record hr := by
    obtain ⟨hinfo, hval⟩ := h.record hr
    obtain ⟨hinfo', hval'⟩ := h'.record (by rwa [State.errCode, hinfo])
    exact ⟨hinfo'.trans hinfo, hval'.trans hval⟩

/-- What leaves the status and error registers alone keeps the errors. -/
theorem sticky_of_eq {s t : State} (htables : t.tables = s.tables) (hparams : t.params = s.params)
    (hstatus : t.status = s.status) (hinfo : t.errinfo = s.errinfo) (hval : t.errval = s.errval) : Sticky s t :=
  ⟨htables, hparams, fun e he => by rwa [State.hasError, hstatus], fun _ => ⟨hinfo, hval⟩⟩

theorem sticky_refl (s : State) : Sticky s s := sticky_of_eq rfl rfl rfl rfl rfl

theorem sticky_withScript (s : State) (script : List HostAction) : Sticky s (s.withScript script) :=
  sticky_of_eq rfl rfl rfl rfl rfl

theorem sticky_raise (e : ErrClass) (n : BitVec 4) (w : Word) (s : State) : Sticky s (raise e n w s) where
  tables := raise_tables ..
  params := raise_params ..
  flags f hf := by simp [hasError_raise, hf]
  record h := (raised_raise e n w s).later h

theorem sticky_setBuilt (s : State) (u : UnitId) : Sticky s (s.setBuilt u) :=
  ⟨rfl, rfl, fun e he => (hasError_setBuilt s u e).trans he, fun _ => ⟨rfl, rfl⟩⟩

theorem sticky_clearBuilt (s : State) (u : UnitId) : Sticky s (s.clearBuilt u) :=
  ⟨rfl, rfl, fun e he => (hasError_clearBuilt s u e).trans he, fun _ => ⟨rfl, rfl⟩⟩

theorem sticky_withPart (s : State) (u : UnitId) (x : u.Part) : Sticky s (s.withPart u x) :=
  by
  apply sticky_of_eq <;> simp

theorem sticky_verdict (c : Verdict) (u : UnitId) (w : Word) (s : State) : Sticky s (c.apply u w s) := by
  cases c with
  | fired => exact sticky_refl s
  | failed e => exact sticky_raise e u.number w s
  | refused => exact (sticky_clearBuilt s u).trans (sticky_raise ..)
  | built => exact (sticky_clearBuilt s u).trans (sticky_setBuilt ..)

theorem sticky_regWrite (i : BitVec 8) (v : Word) (s : State) : Sticky s (regWrite i v s) := by
  unfold regWrite
  split
  · next r _ =>
    have hwrite : Sticky s (rwWrite s v r) := by apply sticky_of_eq <;> simp
    cases r.owner with
    | none => exact hwrite
    | some u => exact hwrite.trans (sticky_clearBuilt ..)
  · exact sticky_refl s
  · exact sticky_raise ..
  · exact sticky_raise ..

theorem sticky_perform (a : HostAction) (s : State) : Sticky s (perform a s) := by
  cases a with
  | regWrite i v => exact sticky_regWrite i v s
  | regRead _ | pushBits _ _ | pushCells _ _ | popBits _ _ | popCells _ _ =>
    apply sticky_of_eq <;> simp [perform]

/-- Every command but `SYS.RESET` keeps the errors. -/
theorem sticky_exec {i : Instr} (hi : i ≠ .sysReset) {s t : State} (ht : exec i s = .next t) : Sticky s t := by
  cases hu : i.unit with
  | none =>
    cases i <;> cases hu
    · cases ht
      exact sticky_refl s
    · exact absurd rfl hi
  | some u =>
    obtain ⟨c, x, -, hact⟩ := actsOn_exec s hu
    cases (hact s (.refl u s)).symm.trans ht
    exact (sticky_verdict c u (encode i) s).trans (sticky_withPart ..)

/-- A step keeps the errors, or it is the command `SYS.RESET`. -/
theorem sticky_or_reset_of_step {s t : State} (ht : step s = .next t) :
    Sticky s t ∨ ∃ rest, s.host.script = .regWrite 0x00#8 0x01000000#32 :: rest ∧ t = resetBlock (s.withScript rest) := by
  obtain ⟨-, rfl⟩ | ⟨a, rest, hscript, ⟨w, i, ha, hw, he⟩ | ⟨w, e, -, -, rfl⟩ | ⟨-, rfl⟩⟩ := step_cases ht
  · exact .inl (sticky_refl t)
  all_goals have hrest : Sticky s (s.withScript rest) := sticky_withScript s rest
  · by_cases hi : i = .sysReset
    · subst hi
      cases he
      have hw' : w = 0x01000000#32 := (encode_of_decode hw).symm
      exact .inr ⟨rest, by rw [hscript, commandWord_eq_some.1 ha, hw'], rfl⟩
    · exact .inl (hrest.trans (sticky_exec hi he))
  · exact .inl (hrest.trans (sticky_raise ..))
  · exact .inl (hrest.trans (sticky_perform ..))

/-- Settles O17: a step that is not `SYS.RESET` keeps the errors, and `SYS.RESET` keeps the table ROM and the
parameters. -/
theorem onlyResetClearsErrors : Obligations.OnlyResetClearsErrors := by
  unfold Obligations.OnlyResetClearsErrors
  intro s t ht
  obtain hsticky | ⟨rest, hscript, rfl⟩ := sticky_or_reset_of_step ht
  · exact ⟨hsticky.tables, hsticky.params, fun _ => ⟨hsticky.flags, hsticky.record⟩⟩
  · exact ⟨rfl, rfl, fun hnot => absurd (congrArg List.head? hscript) hnot⟩

end Sys2Proof.Machine
end

section
/-! SUPPORT. The decoder through the fields of a word (30_encoding.md R91): what each field of a packed word is, the words
that decode and to what (R93, R95), and the rows of the opcode map as masks (R93). -/

namespace Sys2Proof

/-! ## The fields of a word -/

theorem fieldUnit_eq (w : Word) : fieldUnit w = w.toNat / 2 ^ 28 := by
  rw [fieldUnit, BitVec.extractLsb'_toNat, Nat.shiftRight_eq_div_pow]
  omega

theorem fieldOp_eq (w : Word) : fieldOp w = w.toNat / 2 ^ 24 % 16 := by
  rw [fieldOp, BitVec.extractLsb'_toNat, Nat.shiftRight_eq_div_pow]

theorem fieldZero_eq (w : Word) : fieldZero w = w.toNat / 2 ^ 16 % 256 := by
  rw [fieldZero, BitVec.extractLsb'_toNat, Nat.shiftRight_eq_div_pow]

theorem fieldCount_eq (w : Word) : fieldCount w = w.toNat % 2 ^ 16 := by
  rw [fieldCount, BitVec.extractLsb'_toNat, Nat.shiftRight_zero]

theorem toNat_packWord (unit op n : Nat) :
    (packWord unit op n).toNat = unit % 16 * 2 ^ 28 + op % 16 * 2 ^ 24 + n % 2 ^ 16 := by
  have hop : op % 2 ^ 4 < 2 ^ 4 := Nat.mod_lt _ (by decide)
  have hn : n % 2 ^ 16 < 2 ^ 16 := Nat.mod_lt _ (by decide)
  simp only [packWord, BitVec.toNat_append, BitVec.toNat_ofNat, Nat.zero_mod, Nat.or_zero]
  rw [← Nat.shiftLeft_add_eq_or_of_lt hop, ← Nat.shiftLeft_add_eq_or_of_lt hn]
  simp only [Nat.shiftLeft_eq]
  omega

@[simp] theorem fieldUnit_packWord (unit op n : Nat) : fieldUnit (packWord unit op n) = unit % 16 := by
  rw [fieldUnit_eq, toNat_packWord]
  omega

@[simp] theorem fieldOp_packWord (unit op n : Nat) : fieldOp (packWord unit op n) = op % 16 := by
  rw [fieldOp_eq, toNat_packWord]
  omega

@[simp] theorem fieldZero_packWord (unit op n : Nat) : fieldZero (packWord unit op n) = 0 := by
  rw [fieldZero_eq, toNat_packWord]
  omega

@[simp] theorem fieldCount_packWord (unit op n : Nat) : fieldCount (packWord unit op n) = n % 2 ^ 16 := by
  rw [fieldCount_eq, toNat_packWord]
  omega

/-! ## The words that decode -/

/-- What a row of the opcode map gives for a count: the counted command, or the plain one when the count is 0. -/
def OpRow.Gives (n : Nat) : OpRow → Instr → Prop
  | .plain j, i => i = j ∧ n = 0
  | .counted mk, i => i = mk n

/-- A word decodes to what the row of its `unit` and `op` gives for its count, when its field `zero` is 0. -/
theorem decode_eq_ok_iff {w : Word} {i : Instr} :
    decode w = .ok i ↔
      fieldZero w = 0 ∧ ∃ row, opRow (fieldUnit w) (fieldOp w) = .ok row ∧ row.Gives (fieldCount w) i := by
  rw [decode]
  cases opRow (fieldUnit w) (fieldOp w) with
  | error e => simp
  | ok row =>
    by_cases hzero : fieldZero w = 0
    · cases row with
      | plain j => by_cases hcount : fieldCount w = 0 <;> simp [hzero, hcount, OpRow.Gives, eq_comm]
      | counted mk => simp [hzero, OpRow.Gives, eq_comm]
    · simp [hzero]

/-- The opcode map by its bounds (30_encoding.md R95): the units and ops that have no row, and the rows with no count. -/
theorem exists_gives_iff {unit op n : Nat} :
    (∃ i row, opRow unit op = .ok row ∧ OpRow.Gives n row i) ↔
      ¬ (7 ≤ unit ∨ (unit ∈ [0, 1, 2, 3, 5, 6] ∧ 2 ≤ op) ∨ (unit = 4 ∧ 4 ≤ op) ∨
        (n ≠ 0 ∧ ¬ ((unit ∈ [1, 2, 3, 5, 6] ∧ op = 1) ∨ (unit = 4 ∧ op = 3)))) := by
  unfold opRow
  split
  case h_17 =>
    have hnone : ¬ ∃ i row, (if unit ≤ 6 then Except.error DecodeError.noSuchOp else .error .noSuchUnit) = .ok row ∧
        OpRow.Gives n row i := by
      split <;> simp
    refine iff_of_false hnone (not_not.2 ?_)
    simp only [List.mem_cons, List.not_mem_nil]
    grind
  all_goals simp [OpRow.Gives]

theorem opRow_lt {unit op : Nat} {row : OpRow} (h : opRow unit op = .ok row) : unit < 16 ∧ op < 16 := by
  unfold opRow at h
  split at h
  case h_17 => split at h <;> cases h
  all_goals decide

/-- The word of a row's command decodes to it. -/
theorem decode_packWord {unit op n : Nat} {row : OpRow} {i : Instr} (hrow : opRow unit op = .ok row)
    (hn : n < countBound) (hi : row.Gives n i) : decode (packWord unit op n) = .ok i := by
  obtain ⟨hunit, hop⟩ := opRow_lt hrow
  have hcount : n % 2 ^ 16 = n := Nat.mod_eq_of_lt hn
  rw [decode_eq_ok_iff, fieldUnit_packWord, fieldOp_packWord, fieldCount_packWord, Nat.mod_eq_of_lt hunit,
    Nat.mod_eq_of_lt hop, hcount]
  exact ⟨fieldZero_packWord .., row, hrow, hi⟩

/-- Settles O3: the row of each command, with its count, gives the command back. -/
theorem decodeInvertsEncode : Obligations.DecodeInvertsEncode := by
  unfold Obligations.DecodeInvertsEncode
  intro i hwf
  cases i with
  | bchEnc n | ldpcEnc n | bilPerm n | fmMap n | fiSym n | trSym n =>
    exact decode_packWord (row := .counted _) rfl (of_decide_eq_true hwf) rfl
  | sysNop | sysReset | bchBuild | ldpcBuild | bilBuild | fmBuild | fmL1b | fmL1d | fiBuild | trBuild =>
    exact decode_packWord (row := .plain _) rfl (by decide) ⟨rfl, rfl⟩

/-- Settles O4: the decoder answers well-formed commands alone, each for its own word. -/
theorem decodedWordIsItsEncoding : Obligations.DecodedWordIsItsEncoding := by
  unfold Obligations.DecodedWordIsItsEncoding
  exact fun w i h => ⟨wellFormed_of_decode h, encode_of_decode h⟩

/-! ## The rows as masks -/

/-- A field that a counted row's mask keeps whole is the same in the masked word. -/
theorem extractLsb'_masked (w : Word) {start len : Nat}
    (hmask : (0xFFFF0000#32).extractLsb' start len = BitVec.allOnes len) :
    (w &&& 0xFFFF0000#32).extractLsb' start len = w.extractLsb' start len := by
  rw [BitVec.extractLsb'_and, hmask, BitVec.and_allOnes]

/-- The mask of a counted row keeps `unit`, `op` and `zero`, so a word that matches the row has the row's fields. -/
theorem fields_of_masked {w : Word} {unit op : Nat} (h : w &&& 0xFFFF0000#32 = packWord unit op 0) :
    fieldUnit w = unit % 16 ∧ fieldOp w = op % 16 ∧ fieldZero w = 0 := by
  have hunit : fieldUnit (w &&& 0xFFFF0000#32) = fieldUnit w :=
    congrArg BitVec.toNat (extractLsb'_masked w (by decide))
  have hop : fieldOp (w &&& 0xFFFF0000#32) = fieldOp w := congrArg BitVec.toNat (extractLsb'_masked w (by decide))
  have hzero : fieldZero (w &&& 0xFFFF0000#32) = fieldZero w :=
    congrArg BitVec.toNat (extractLsb'_masked w (by decide))
  rw [← hunit, ← hop, ← hzero, h]
  exact ⟨fieldUnit_packWord .., fieldOp_packWord .., fieldZero_packWord ..⟩

/-- A plain row's `match` is the one word of its command. -/
theorem match_plain_iff {w m : Word} {i : Instr} (hm : decode m = .ok i) :
    w &&& 0xFFFFFFFF#32 = m ↔ decode w = .ok i := by
  rw [show 0xFFFFFFFF#32 = BitVec.allOnes 32 by decide, BitVec.and_allOnes]
  constructor
  · rintro rfl
    exact hm
  · intro hw
    exact (encode_of_decode hw).symm.trans (encode_of_decode hm)

/-- A counted row's `match` is its words without their counts. -/
theorem match_counted_iff {w m : Word} {mk : Nat → Instr} (hrow : opRow (fieldUnit m) (fieldOp m) = .ok (.counted mk))
    (hm : packWord (fieldUnit m) (fieldOp m) 0 = m) : w &&& 0xFFFF0000#32 = m ↔ ∃ n, decode w = .ok (mk n) := by
  constructor
  · intro h
    obtain ⟨hunit, hop, hzero⟩ := fields_of_masked (h.trans hm.symm)
    obtain ⟨hunit', hop'⟩ := opRow_lt hrow
    rw [Nat.mod_eq_of_lt hunit'] at hunit
    rw [Nat.mod_eq_of_lt hop'] at hop
    exact ⟨fieldCount w, decode_eq_ok_iff.2 ⟨hzero, .counted mk, by rw [hunit, hop, hrow], rfl⟩⟩
  · rintro ⟨n, hn⟩
    rw [← encode_of_decode hn, opRow_encodes hrow n, Laws.MatchesRow.masked_packWord, hm]

/-- The count of a decoded command is the word's field `n` (30_encoding.md R92). -/
theorem count_of_decode {w : Word} {unit op n : Nat} {i : Instr} (h : decode w = .ok i)
    (hi : encode i = packWord unit op n) (hn : i.wellFormed = true → n < countBound) : n = w.toNat % 65536 := by
  have hw : fieldCount w = n % 2 ^ 16 := by
    rw [← encode_of_decode h, hi, fieldCount_packWord]
  rw [fieldCount_eq] at hw
  exact (hw.trans (Nat.mod_eq_of_lt (hn (wellFormed_of_decode h)))).symm

/-- Settles O5: the sixteen rows are plain or counted, and each counted command packs its count in the field `n`. -/
theorem opcodeMapIsExact : Obligations.OpcodeMapIsExact := by
  unfold Obligations.OpcodeMapIsExact
  refine ⟨fun w => ⟨?_, ?_, ?_, ?_, ?_, ?_, ?_, ?_, ?_, ?_, ?_, ?_, ?_, ?_, ?_, ?_⟩, fun w n h => ?_⟩
  case refine_17 =>
    obtain h | h | h | h | h | h := h
    all_goals exact count_of_decode h rfl of_decide_eq_true
  case refine_4 | refine_6 | refine_8 | refine_12 | refine_14 | refine_16 => exact match_counted_iff rfl rfl
  all_goals exact match_plain_iff (by decide)

/-- Settles O6: each word is the word of its command. -/
theorem writtenWordsDecode : Obligations.WrittenWordsDecode := by
  unfold Obligations.WrittenWordsDecode
  decide

end Sys2Proof

namespace Sys2Proof.Machine

/-- The next action, when it writes a word that encodes no command, records `IllegalCommand`. -/
theorem step_of_illegal {s : State} {w : Word} {rest : List HostAction}
    (hs : s.host.script = .regWrite 0#8 w :: rest) (hd : ∀ i, decode w ≠ .ok i) :
    step s = .next (illegalCommand w (s.withScript rest)) := by
  cases he : decode w with
  | ok i => exact absurd he (hd i)
  | error e => simp [step, hs, commandWord, issue, he]

/-- Settles O2: a word that does not decode has no row, a `zero` field that is not 0, or a count its row does not take;
the step that writes one raises the error. -/
theorem illegalWordIsRecorded : Obligations.IllegalWordIsRecorded := by
  unfold Obligations.IllegalWordIsRecorded
  refine ⟨fun w => ?_, fun s w rest hs hd => ⟨_, step_of_illegal hs hd, raised_raise ..⟩⟩
  have hdecodes : (∃ i, decode w = .ok i) ↔ fieldZero w = 0 ∧
      ∃ i row, opRow (fieldUnit w) (fieldOp w) = .ok row ∧ row.Gives (fieldCount w) i := by
    simp only [decode_eq_ok_iff, exists_and_left]
  rw [exists_gives_iff, fieldUnit_eq, fieldOp_eq, fieldZero_eq, fieldCount_eq] at hdecodes
  rw [← not_exists, hdecodes, not_and_or, not_not, or_left_comm, or_left_comm (a := ¬ _ = _),
    or_left_comm (a := ¬ _ = _)]

end Sys2Proof.Machine
end

section
/-! SUPPORT. What a command that is refused records: a streaming command whose block holds an item that is no bit item
(60_exceptions.md R296), and a BUILD whose configuration fails a check (R293). -/

namespace Sys2Proof.Machine

open Sys2Proof.Config

/-! ## Items that are no bit items -/

/-- The third check of the streaming skeleton (40_system_commands.md R111) sees an item that is neither 0x00 nor 0x01. -/
theorem hasBadItem_of_mem {q : List Byte} {n : Nat} (h : ∃ x ∈ q.take n, x ≠ 0x00#8 ∧ x ≠ 0x01#8) :
    hasBadItem q n = true := by
  obtain ⟨x, hx, hne⟩ := h
  refine Bool.of_not_eq_false fun hgood => ?_
  have hbit := (isBitItem_iff x).1 (hasBadItem_eq_false.1 hgood x hx)
  exact hbit.elim hne.1 hne.2

/-- A built unit with enough items, one of them no bit item, records `BadItem`. -/
theorem streaming_raised_badItem {u : UnitId} {w : Word} {q : List Byte} {need : Nat} {fire : State → State} {s : State}
    (hb : s.isBuilt u = true) (hlen : need ≤ q.length) (hbad : ∃ x ∈ q.take need, x ≠ 0x00#8 ∧ x ≠ 0x01#8) :
    Raised .badItem u.number w s (streaming u w (q.length < need) (hasBadItem q need) fire s) := by
  rw [decide_eq_false (Nat.not_lt.2 hlen), hasBadItem_of_mem hbad, streaming_of_bad hb]
  exact raised_raise ..

/-- Settles O14: the three commands differ in their unit and its block length alone. -/
theorem badItemIsRefused : Obligations.BadItemIsRefused := by
  unfold Obligations.BadItemIsRefused
  exact fun n s =>
    ⟨fun hb hlen hbad => ⟨_, rfl, streaming_raised_badItem hb hlen hbad⟩,
      fun hb hlen hbad => ⟨_, rfl, streaming_raised_badItem hb hlen hbad⟩,
      fun hb hlen hbad => ⟨_, rfl, streaming_raised_badItem hb hlen hbad⟩⟩

/-! ## Configurations that fail a check -/

section
variable {t : Tables} {p : Params}

theorem bchDerive_eq_none {u : BchRegs} (h : ¬ BchConfigOk t p u) : bchDerive t p u = none := by
  rwa [← Option.not_isSome_iff_eq_none, bchDerive_isSome_iff]

theorem ldpcDerive_eq_none {u : LdpcRegs} (h : ¬ ∃ rows, LdpcConfigOk t p u rows ∧ LdpcOrder t p u rows) :
    ldpcDerive t p u = none := by
  refine Option.eq_none_iff_forall_ne_some.2 fun d hd => h ?_
  obtain ⟨rows, hok, horder, -⟩ := (ldpcDerive_eq_some_iff ..).1 hd
  exact ⟨rows, hok, horder⟩

theorem bilDerive_eq_none {u : BilRegs} (h : ¬ ∃ perm, BilConfigOk t p u perm) : bilDerive t p u = none := by
  refine Option.eq_none_iff_forall_ne_some.2 fun d hd => h ?_
  obtain ⟨perm, hok, -⟩ := (bilDerive_eq_some_iff ..).1 hd
  exact ⟨perm, hok⟩

theorem fmDerive_eq_none {u : FmRegs} (h : ¬ ∃ k geo, GeomConfigOk t p u.geom k geo ∧ FmCellsOk p u geo) :
    fmDerive t p u = none := by
  refine Option.eq_none_iff_forall_ne_some.2 fun d hd => h ?_
  obtain ⟨k, geo, hgeom, hcells, -⟩ := (fmDerive_eq_some_iff ..).1 hd
  exact ⟨k, geo, hgeom, hcells⟩

theorem fiDerive_eq_none {u : FiRegs}
    (h : ¬ ∃ k geo nr, GeomConfigOk t p u.geom k geo ∧ FiGeneratorOk t p k.fft geo.symbols nr ∧
      ∀ l, l < geo.symbols → FiVectorsPerm geo (fiPass t k.fft geo nr l)) : fiDerive t p u = none := by
  refine Option.eq_none_iff_forall_ne_some.2 fun d hd => h ?_
  obtain ⟨k, geo, nr, hgeom, hgen, hvectors, -⟩ := (fiDerive_eq_some_iff ..).1 hd
  exact ⟨k, geo, nr, hgeom, hgen, hvectors⟩

theorem trDerive_eq_none {u : TrRegs}
    (h : ¬ ∃ k geo, GeomConfigOk t p u.geom k geo ∧ (paprModeOf p.enums u.paprMode = .tr → TrTonesOk t p u k)) :
    trDerive t p u = none := by
  refine Option.eq_none_iff_forall_ne_some.2 fun d hd => h ?_
  obtain ⟨k, geo, hgeom, htones, -⟩ := (trDerive_eq_some_iff ..).1 hd
  exact ⟨k, geo, hgeom, htones⟩

end

/-- Settles O15: without a derived state the BUILD skeleton clears the flag and records the error. -/
theorem badConfigurationIsRefused : Obligations.BadConfigurationIsRefused := by
  unfold Obligations.BadConfigurationIsRefused
  exact fun s =>
    ⟨fun h => ⟨_, rfl, building_raised (u := .bch) (bchDerive_eq_none h)⟩,
      fun h => ⟨_, rfl, building_raised (u := .ldpc) (ldpcDerive_eq_none h)⟩,
      fun h => ⟨_, rfl, building_raised (u := .bil) (bilDerive_eq_none h)⟩,
      fun h => ⟨_, rfl, building_raised (u := .fm) (fmDerive_eq_none h)⟩,
      fun h => ⟨_, rfl, building_raised (u := .fi) (fiDerive_eq_none h)⟩,
      fun h => ⟨_, rfl, building_raised (u := .tr) (trDerive_eq_none h)⟩⟩

end Sys2Proof.Machine
end

section
/-! SUPPORT. What the BUILD commands of the units other than 2 and 5 install (40_system_commands.md R112). -/

namespace Sys2Proof.Machine

open Sys2Proof.Config

/-- A BUILD that completes installs the derived state and sets the flag: clearing it first leaves no trace, as installing
reads and writes no flag. -/
theorem building_eq_install {δ : Type} {u : UnitId} {w : Word} {d : δ} {install : δ → State → State} {s : State}
    (h : ∀ status, install d { s with status := status } = { install d s with status := status }) :
    building u w (some d) install s = { install d s with status := setFlag s.status u.builtBit } := by
  rw [building_of_some, State.clearBuilt, h, State.setBuilt, setFlag_clearFlag]

/-- A `BCH.BUILD` that completes starts the counter at 0. -/
theorem exec_bchBuild_of_some {s : State} {d : BchDerived} (h : bchDerive s.tables s.params s.bch.regs = some d) :
    exec .bchBuild s =
      .next { s with status := setFlag s.status 0, bch := { s.bch with der := d, blkcnt := 0#32 } } := by
  rw [show exec .bchBuild s = execBchBuild s from rfl, execBchBuild, h, building_eq_install fun _ => rfl]
  rfl

/-- An `FM.BUILD` that completes starts the counter at 0. -/
theorem exec_fmBuild_of_some {s : State} {d : FmDerived} (h : fmDerive s.tables s.params s.fm.regs = some d) :
    exec .fmBuild s =
      .next { s with status := setFlag s.status 3, fm := { s.fm with der := d, framecnt := 0#32 } } := by
  rw [show exec .fmBuild s = execFmBuild s from rfl, execFmBuild, h, building_eq_install fun _ => rfl]
  rfl

/-- A `TR.BUILD` that completes starts both counters at 0. -/
theorem exec_trBuild_of_some {s : State} {d : TrDerived} (h : trDerive s.tables s.params s.tr.regs = some d) :
    exec .trBuild s =
      .next
        { s with
          status := setFlag s.status 5
          tr := { s.tr with der := d, symidx := 0#32, framecnt := 0#32 } } := by
  rw [show exec .trBuild s = execTrBuild s from rfl, execTrBuild, h, building_eq_install fun _ => rfl]
  rfl

/-! ## Units 3, 4 and 6 -/

/-- Settles O36: the derived state of a configuration that passes the checks, installed. -/
theorem bilBuildCompletes : Obligations.BilBuildCompletes := by
  unfold Obligations.BilBuildCompletes
  exact fun s perm hok => exec_bilBuild_of_some ((bilDerive_eq_some_iff ..).2 ⟨perm, hok, rfl⟩)

/-- Settles O39: the derived state of a configuration that passes the checks, installed. -/
theorem fmBuildCompletes : Obligations.FmBuildCompletes := by
  unfold Obligations.FmBuildCompletes
  exact fun s k geo hgeom hcells => exec_fmBuild_of_some ((fmDerive_eq_some_iff ..).2 ⟨k, geo, hgeom, hcells, rfl⟩)

/-- Settles O51: the derived state of a configuration that passes the checks, installed, and its fields read off. -/
theorem trBuildCompletes : Obligations.TrBuildCompletes := by
  unfold Obligations.TrBuildCompletes
  intro s k geo hgeom htones
  have hd := (trDerive_eq_some_iff ..).2 ⟨k, geo, hgeom, htones, rfl⟩
  exact ⟨_, exec_trBuild_of_some hd, rfl, rfl, rfl, rfl, rfl, rfl, rfl, rfl, rfl, rfl, rfl⟩

/-! ## Unit 1 -/

/-- What `BCH.BUILD` derives (41_bch.md R120) from a configuration that passes the checks of R121. -/
theorem bchDerive_of_configOk {t : Tables} {p : Params} {u : BchRegs} {mode : FecMode} (h : BchConfigOk t p u)
    (hmode : fecModeOf p.enums u.fecMode = some mode) :
    bchDerive t p u =
      some
        { r := bchR.get (frameSizeOf p.enums u.frameSize)
          polynome := BitVec.ofNat _ (bchGenerator t (frameSizeOf p.enums u.frameSize))
          lut := bchTable _ (bchGenerator t (frameSizeOf p.enums u.frameSize))
          crcLut := crcTable
          kbch := u.kbch.toNat
          mode := mode
          nfec := bchNfec mode (bchR.get (frameSizeOf p.enums u.frameSize)) } := by
  have hk : u.kbch ≠ 0#16 := fun h0 => h.nonzero (by rw [h0]; rfl)
  rw [bchDerive, hmode]
  exact if_pos ⟨hk, h.bytes, h.degree⟩

/-- A polynomial of degree `r` is its top term and the `r` coefficients below it (41_bch.md R122). -/
theorem eq_two_pow_add_low {g r : Nat} (hg : g ≠ 0) (hr : g.log2 = r) : g = 2 ^ r + (BitVec.ofNat r g).toNat := by
  subst hr
  have hle := Nat.log2_self_le hg
  have hlt := Nat.lt_log2_self (n := g)
  rw [Nat.pow_succ] at hlt
  rw [BitVec.toNat_ofNat, Nat.mod_eq_sub_mod hle, Nat.mod_eq_of_lt (by omega)]
  omega

/-- The division table holds the 256 remainders (41_bch.md R123). -/
theorem getD_bchTable {g r b : Nat} (hg : g ≠ 0) (hr : g.log2 = r) (hb : b < 256) :
    ((bchTable r g).getD b 0).toNat = pmod (b <<< r) g := by
  have hlt := pmod_lt_two_pow (b <<< r) hg
  rw [hr] at hlt
  rw [bchTable, List.getD_eq_getElem _ _ (by simpa using hb), List.getElem_map, List.getElem_range, BitVec.toNat_ofNat,
    Nat.mod_eq_of_lt hlt]

/-- The CRC table holds the 256 entries by shift-and-subtract (41_bch.md R124). -/
theorem getD_crcTable {b : Nat} (hb : b < 256) :
    crcTable.getD b 0 =
      (fun t : Word => if t.getLsbD 31 then (t <<< 1) ^^^ crc32Poly else t <<< 1)^[8] (BitVec.ofNat 32 b <<< 24) := by
  have hbyte : (BitVec.ofNat 8 b).setWidth 32 = BitVec.ofNat 32 b := by
    refine BitVec.eq_of_toNat_eq ?_
    simp only [BitVec.toNat_setWidth, BitVec.toNat_ofNat]
    omega
  rw [crcTable, List.getD_eq_getElem _ _ (by simpa using hb), List.getElem_map, List.getElem_range, divEntry, hbyte]
  rfl

/-- Settles O26: the derived state of a configuration that passes the checks, its polynomial and tables entry by entry. -/
theorem bchBuildCompletes : Obligations.BchBuildCompletes := by
  unfold Obligations.BchBuildCompletes
  intro s hok fs
  obtain ⟨mode, hmode⟩ := hok.mode
  have hdegree : (bchGenerator s.tables fs).log2 = bchR.get fs := hok.degree
  have hgen : bchGenerator s.tables fs ≠ 0 := by
    intro h0
    rw [h0] at hdegree
    cases hfs : fs <;> simp [hfs, PerFrameSize.get, bchR] at hdegree
  have hr {fs' : FrameSize} (h : fs = fs') : bchR.get fs = bchR.get fs' := congrArg bchR.get h
  have hnfec {m : FecMode} (h : mode = m) : bchNfec mode (bchR.get fs) = bchNfec m (bchR.get fs) :=
    congrArg (bchNfec · (bchR.get fs)) h
  exact ⟨_, exec_bchBuild_of_some (bchDerive_of_configOk hok hmode), hr, hr, eq_two_pow_add_low hgen hdegree,
    ⟨by simp [bchTable], fun _ => getD_bchTable hgen hdegree⟩, ⟨by simp [crcTable], fun _ => getD_crcTable⟩, rfl,
    hmode, hnfec, hnfec, hnfec⟩

end Sys2Proof.Machine
end

section
/-! SUPPORT. Streaming commands that are ready to fire (40_system_commands.md R111), of units 2, 3, 4 and 6. -/

namespace Sys2Proof.Machine

open Sys2Proof.Config

/-! ## Bit items -/

/-- The checks of a bit command pass for a built unit with the items of its blocks. -/
theorem streaming_of_bits {u : UnitId} {w : Word} {q : List Byte} {need : Nat} {fire : State → State} {s : State}
    (hb : s.isBuilt u = true) (hlen : need ≤ q.length) (hbits : ∀ x ∈ q.take need, x = 0x00#8 ∨ x = 0x01#8) :
    streaming u w (q.length < need) (hasBadItem q need) fire s = fire s := by
  have hbad : hasBadItem q need = false := hasBadItem_eq_false.2 fun x hx => (isBitItem_iff x).2 (hbits x hx)
  rw [decide_eq_false (Nat.not_lt.2 hlen), hbad, streaming_of_ready hb]

/-- Settles O33: the checks pass, and the firings take block after block. -/
theorem ldpcEncCompletes : Obligations.LdpcEncCompletes := by
  unfold Obligations.LdpcEncCompletes
  intro n s hb hlen hbits
  rw [show exec (.ldpcEnc n) s = execLdpcEnc n s from rfl, execLdpcEnc, streaming_of_bits hb hlen hbits, ldpcFire_iterate]

/-- Settles O37: the checks pass, and the firings gather block after block. -/
theorem bilPermCompletes : Obligations.BilPermCompletes := by
  unfold Obligations.BilPermCompletes
  intro n s hb hlen hbits
  rw [show exec (.bilPerm n) s = execBilPerm n s from rfl, execBilPerm, streaming_of_bits hb hlen hbits, bilFire_iterate]
  rfl

/-! ## Frames -/

/-- Unit 4 is not short of cells exactly when each of its three queues holds those of `n` frames. -/
theorem fmShort_eq_false {n : Nat} {u : FmUnit} :
    fmShort n u = false ↔
      n * u.der.l1bCells ≤ u.l1bIn.length ∧ n * u.der.l1dCells ≤ u.l1dIn.length ∧
        n * u.der.plpCells ≤ u.plpIn.length := by
  simp [fmShort, and_assoc]

/-- Settles O42: the check of the three queues passes, and the firings place frame after frame. -/
theorem fmMapCompletes : Obligations.FmMapCompletes := by
  unfold Obligations.FmMapCompletes
  intro n s hb hl1b hl1d hplp
  rw [show exec (.fmMap n) s = execFmMap n s from rfl, execFmMap, fmShort_eq_false.2 ⟨hl1b, hl1d, hplp⟩,
    streaming_of_ready hb, fmFire_iterate]
  rfl

/-! ## Symbols of unit 6 -/

/-- How many of the next `k` symbols unit 6 reduces. -/
def trReducedBefore (u : TrUnit) (k : Nat) : Nat := ((List.range k).filter (trReduces u)).length

/-- What the `k`-th symbol from now leaves unit 6 as (46_papr_tr.md R245). -/
noncomputable def trSymbol (p : Params) (u : TrUnit) (k : Nat) : List Cell :=
  if trReduces u k then
    (trReduce (u.freeUses + trReducedBefore u k) p u.der (symbolAt u.der.geom u.symidx k) (blockAt u.inq u.der.n k)).1
  else blockAt u.inq u.der.n k

theorem trReducedBefore_succ (u : TrUnit) (k : Nat) :
    trReducedBefore u (k + 1) = trReducedBefore u k + if trReduces u k then 1 else 0 := by
  rw [trReducedBefore, List.range_succ, List.filter_append, List.length_append, trReducedBefore]
  by_cases hk : trReduces u k = true <;> simp [hk]

/-- The mode and the symbol's place in its frame decide whether it is reduced (46_papr_tr.md R242). -/
theorem trEngaged_symbolAt (u : TrUnit) (k : Nat) :
    trEngaged u.der (symbolAt u.der.geom u.symidx k) = trReduces u k := by
  rw [trEngaged, trReduces, Bool.decide_and, decide_not]
  rfl

/-- Firing `k` takes block `k` of the queue; each symbol reduced draws the next free value (log entry 10). -/
theorem trFire_iterate {u : TrUnit} (p : Params) (h : u.symidx.toNat < u.der.geom.symbols)
    (h2 : u.der.geom.symbols ≤ 2 ^ 16) (n : Nat) :
    ∃ scratch, (trFire p)^[n] u =
      { u with
        inq := u.inq.drop (n * u.der.n)
        outq := u.outq ++ (List.range n).flatMap (trSymbol p u)
        symidx := BitVec.ofNat 32 (symbolAt u.der.geom u.symidx n)
        framecnt := u.framecnt + BitVec.ofNat 32 ((u.symidx.toNat + n) / u.der.geom.symbols)
        scratch := scratch
        freeUses := u.freeUses + trReducedBefore u n } := by
  induction n with
  | zero => exact ⟨u.scratch, by simp [symbolAt_zero h, Nat.div_eq_of_lt h, trReducedBefore]⟩
  | succ n ih =>
    obtain ⟨scratch, ih⟩ := ih
    rw [Function.iterate_succ_apply', ih, flatMap_range_succ, ← nextSymidx_symbolAt h h2, ← nextFramecnt_symbolAt h h2,
      ← List.append_assoc, Nat.succ_mul, ← List.drop_drop, trReducedBefore_succ, trFire]
    simp only [toNat_ofNat_symbolAt h h2, trEngaged_symbolAt, trSymbol, blockAt]
    by_cases hk : trReduces u n = true
    · simp only [hk, if_true]
      exact ⟨_, rfl⟩
    · simp only [hk]
      exact ⟨scratch, rfl⟩

/-- Settles O52: the check of the queue passes, and the firings take symbol after symbol, reducing those to be reduced. -/
theorem trSymCompletes : Obligations.TrSymCompletes := by
  unfold Obligations.TrSymCompletes
  intro n s hvalid hindex hb hlen
  obtain ⟨scratch, hfire⟩ := trFire_iterate s.params (hindex.2 hb) (tr_symbols_le hvalid hb) n
  refine ⟨scratch, ?_⟩
  rw [show exec (.trSym n) s = execTrSym n s from rfl, execTrSym, decide_eq_false (Nat.not_lt.2 hlen),
    streaming_of_ready hb, hfire]
  rfl

end Sys2Proof.Machine
end

section
/-! SUPPORT. The accesses of the host that issue no command (40_system_commands.md R105, R107, R108), and the command that
does nothing (R109). -/

namespace Sys2Proof.Machine

/-- An action that issues no command is performed, once taken off the script. -/
theorem step_of_action {s : State} {a : HostAction} {rest : List HostAction} (hs : s.host.script = a :: rest)
    (ha : commandWord a = none) : step s = .next (perform a (s.withScript rest)) := by
  simp [step, hs, ha]

/-! ## Register reads -/

/-- No register is on the host's side. -/
theorem regRead_withScript (s : State) (script : List HostAction) (i : BitVec 8) :
    regRead (s.withScript script) i = regRead s i := rfl

/-- An index outside the eight ranges of the map (10_state.md R23) names no register. -/
theorem regAt_of_unlisted : ∀ i : BitVec 8,
    (∀ r ∈ [(0x00, 4), (0x10, 4), (0x20, 10), (0x30, 4), (0x40, 13), (0x50, 31), (0x80, 11), (0xA0, 14)],
      ¬(r.1 ≤ i.toNat ∧ i.toNat < r.1 + r.2)) → regAt i = .unimplemented := by
  decide +kernel

/-- Settles O7: a read performs its answer; the indices of each range, looked up in the map, name its registers in
order; the others name none. -/
theorem registerReads : Obligations.RegisterReads := by
  unfold Obligations.RegisterReads
  refine ⟨fun s i rest hs => ?_, fun s => ⟨rfl, rfl, rfl, rfl, rfl, rfl, rfl, rfl, rfl, rfl, rfl⟩, fun s i hi => ?_⟩
  · rw [step_of_action hs rfl, perform, regRead_withScript]
    rfl
  · rw [regRead, regAt_of_unlisted i hi]

/-! ## Queues -/

/-- Settles O10: each of the fifteen queues has its port, which moves the items of that queue alone. -/
theorem queuePortMovesItems : Obligations.QueuePortMovesItems := by
  unfold Obligations.QueuePortMovesItems
  refine ⟨⟨fun s q items rest hs => ?_, fun s q items rest hs => ?_⟩, fun s q m rest hs => ?_,
    fun s q m rest hs => ?_⟩
  · rw [step_of_action hs rfl]
    cases q <;> rfl
  · rw [step_of_action hs rfl]
    cases q <;> rfl
  · rw [step_of_action hs rfl, ← List.take_eq_take_min]
    cases q <;> rfl
  · rw [step_of_action hs rfl, ← List.take_eq_take_min]
    cases q <;> rfl

/-! ## The command that does nothing -/

/-- Settles O24: the word's fields are those of the first row of the opcode map. -/
theorem sysNopChangesNothing : Obligations.SysNopChangesNothing := by
  unfold Obligations.SysNopChangesNothing
  exact ⟨by decide, fun _ => rfl⟩

end Sys2Proof.Machine
end

section
/-! SUPPORT. Unit 1 (41_bch.md): the algebra of the remainder, registers that hold remainders, the byte-wise tables
against the bit-serial divider (R123, R124, R135), and a block's suffix in each mode (R131 to R136). -/

namespace Sys2Proof.Machine

open Sys2Proof.Config

/-! ## Packing (00_scope.md R10) -/

/-- A new lowest digit, as a number and as a coefficient. -/
theorem shiftLeft_one_xor_toNat (a : Nat) (b : Bool) : (a <<< 1) ^^^ b.toNat = 2 * a + b.toNat := by
  rw [Nat.shiftLeft_eq, pow_one, Nat.mul_comm]
  cases b with
  | false => exact Nat.xor_zero _
  | true => exact Nat.xor_one_of_even (even_two_mul a)

/-- An item appended is the new lowest digit. -/
theorem packMsb_concat (l : List Byte) (x : Byte) : packMsb (l ++ [x]) = (packMsb l <<< 1) ^^^ (itemBit x).toNat := by
  rw [shiftLeft_one_xor_toNat, packMsb, List.foldl_append]
  rfl

/-- Items appended move the digits before them up. -/
theorem packMsb_append (l m : List Byte) : packMsb (l ++ m) = (packMsb l <<< m.length) ^^^ packMsb m := by
  induction m using List.reverseRecOn with
  | nil => simp [packMsb]
  | append_singleton m x ih =>
    rw [← List.append_assoc, packMsb_concat, packMsb_concat, ih, Nat.shiftLeft_xor_distrib, Nat.xor_assoc,
      ← Nat.shiftLeft_add, List.length_append, List.length_singleton]

theorem packMsb_lt_two_pow (l : List Byte) : packMsb l < 2 ^ l.length := by
  induction l using List.reverseRecOn with
  | nil => decide
  | append_singleton l x ih =>
    have hbit : (itemBit x).toNat < 2 ^ (l.length + 1) :=
      (Bool.toNat_lt _).trans_le (Nat.pow_le_pow_right (n := 2) (i := 1) two_pos (by omega))
    rw [packMsb_concat, List.length_append, List.length_singleton]
    exact Nat.xor_lt_two_pow (Nat.shiftLeft_lt ih) hbit

@[simp] theorem length_bitString (r v : Nat) : (bitString r v).length = r := by simp [bitString]

/-- The lowest digit of a bit string is its last item. -/
theorem bitString_succ (r v : Nat) : bitString (r + 1) v = bitString r (v >>> 1) ++ [bitItem (v.testBit 0)] := by
  rw [bitString, List.range_succ, List.map_append, bitString]
  congr 1
  · refine List.map_congr_left fun i hi => ?_
    have hindex : 1 + (r - 1 - i) = r + 1 - 1 - i := by have := List.mem_range.1 hi; omega
    rw [Nat.testBit_shiftRight, hindex]
  · simp

/-- Packing undoes the bit string of a number that fits. -/
theorem packMsb_bitString {r v : Nat} (h : v < 2 ^ r) : packMsb (bitString r v) = v := by
  induction r generalizing v with
  | zero => exact (Nat.lt_one_iff.1 h).symm
  | succ r ih =>
    have hhalf : v >>> 1 < 2 ^ r := by rw [Nat.shiftRight_eq_div_pow]; omega
    rw [bitString_succ, packMsb_concat, ih hhalf, itemBit_bitItem, shiftLeft_one_xor_toNat, Nat.toNat_testBit,
      Nat.shiftRight_eq_div_pow]
    omega

/-- The bits of a word, most significant first, are the bit string of its number. -/
theorem emitMsb_eq_bitString {n : Nat} (v : BitVec n) : emitMsb v = bitString n v.toNat := by
  refine List.map_congr_left fun i hi => ?_
  rw [BitVec.getMsbD, decide_eq_true (List.mem_range.1 hi), Bool.true_and, BitVec.testBit_toNat]

/-- Eight items make the first byte. -/
theorem packBytes_append {bits : List Byte} (h : bits.length = 8) (rest : List Byte) :
    packBytes (bits ++ rest) = BitVec.ofNat 8 (packMsb bits) :: packBytes rest :=
  match bits, h with
  | [_, _, _, _, _, _, _, _], _ => rfl

/-! ## The algebra of the remainder (00_scope.md R12) -/

@[simp] theorem pmul_one_left (b : Nat) : pmul 1 b = b := pmul_two_pow 0 b

/-- Shifting the left factor by one place shifts each summand of the product. -/
theorem pmulLow_shiftLeft_one (a b n : Nat) : pmulLow (a <<< 1) b (n + 1) = pmulLow a b n <<< 1 := by
  induction n with
  | zero => simp [pmulLow]
  | succ n ih =>
    have hbit : (a <<< 1).testBit (n + 1) = a.testBit n := by simp [Nat.testBit_shiftLeft]
    rw [pmulLow, ih, hbit, pmulLow, Nat.shiftLeft_xor_distrib]
    split <;> simp [Nat.shiftLeft_add]

/-- A shift of the left factor shifts the product. -/
theorem pmul_shiftLeft_left (a b k : Nat) : pmul (a <<< k) b = pmul a b <<< k := by
  induction k with
  | zero => rfl
  | succ k ih =>
    have hlt : (a <<< k) <<< 1 < 2 ^ ((a <<< k).log2 + 1 + 1) := Nat.shiftLeft_lt Nat.lt_log2_self
    rw [Nat.shiftLeft_add, Nat.shiftLeft_add, ← ih, pmul_eq_pmulLow hlt, pmulLow_shiftLeft_one, pmul]

section Remainder

variable {g : Nat}

/-- A polynomial of a degree below that of the divisor is its own remainder. -/
theorem pmod_of_lt {a : Nat} (hg : g ≠ 0) (h : a < 2 ^ g.log2) : pmod a g = a :=
  (eq_pmod_of_xor_eq_pmul (q := 0) hg h (by simp)).symm

/-- The remainder is additive. -/
theorem pmod_xor (a b : Nat) (hg : g ≠ 0) : pmod (a ^^^ b) g = pmod a g ^^^ pmod b g := by
  obtain ⟨q, hq⟩ := exists_xor_pmod_eq_pmul a hg
  obtain ⟨q', hq'⟩ := exists_xor_pmod_eq_pmul b hg
  refine (eq_pmod_of_xor_eq_pmul (q := q ^^^ q') hg
    (Nat.xor_lt_two_pow (pmod_lt_two_pow a hg) (pmod_lt_two_pow b hg)) ?_).symm
  rw [pmul_xor_left, ← hq, ← hq']
  simp [Nat.xor_assoc, Nat.xor_left_comm]

/-- A shift may be taken on the remainder. -/
theorem pmod_shiftLeft_pmod (a k : Nat) (hg : g ≠ 0) : pmod (pmod a g <<< k) g = pmod (a <<< k) g := by
  obtain ⟨q, hq⟩ := exists_xor_pmod_eq_pmul a hg
  obtain ⟨q', hq'⟩ := exists_xor_pmod_eq_pmul (pmod a g <<< k) hg
  refine eq_pmod_of_xor_eq_pmul (q := q <<< k ^^^ q') hg (pmod_lt_two_pow _ hg) ?_
  rw [pmul_xor_left, pmul_shiftLeft_left, ← hq, ← hq', Nat.shiftLeft_xor_distrib]
  simp [Nat.xor_assoc, Nat.xor_left_comm]

theorem pmod_shiftLeft_pmod_xor (a b k : Nat) (hg : g ≠ 0) :
    pmod ((pmod a g <<< k) ^^^ b) g = pmod ((a <<< k) ^^^ b) g := by
  rw [pmod_xor _ _ hg, pmod_shiftLeft_pmod _ _ hg, ← pmod_xor _ _ hg]

end Remainder

/-! ## Registers of `r` bits that hold remainders -/

/-- A register shifted left by `k` places, without loss: the `k` bits shifted out, and the register after the shift. -/
theorem toNat_shiftLeft_eq_xor {r k : Nat} (c : BitVec r) (h : k ≤ r) :
    c.toNat <<< k = ((c.extractLsb' (r - k) k).toNat <<< r) ^^^ (c <<< k).toNat := by
  refine Nat.eq_of_testBit_eq fun i => ?_
  simp only [Nat.testBit_xor, Nat.testBit_shiftLeft, BitVec.testBit_toNat, BitVec.getLsbD_shiftLeft,
    BitVec.getLsbD_extractLsb']
  by_cases hi : r ≤ i
  · have hindex : r - k + (i - r) = i - k := by omega
    have hhigh : r ≤ i - k → c.getLsbD (i - k) = false := BitVec.getLsbD_of_ge c _
    by_cases hk : i - r < k
    · simp [hi, hk, hindex, show k ≤ i by omega, show ¬ i < r by omega]
    · simp [hk, hhigh (by omega), show ¬ i < r by omega]
  · by_cases hk : k ≤ i <;> simp [hi, hk, show i < r by omega]

/-- One step of bit-serial division: the register moves left, and the divisor is subtracted if the bit shifted out and the
input bit differ (41_bch.md R135). -/
def serialStep {r : Nat} (poly c : BitVec r) (x : Bool) : BitVec r :=
  if c.getMsbD 0 != x then (c <<< 1) ^^^ poly else c <<< 1

theorem serialStep_false {r : Nat} (poly c : BitVec r) : serialStep poly c false = divStep poly c := by
  rw [serialStep, divStep, Bool.bne_false]

/-- Bit-serial division of a block from a first register. -/
def serialDivide {r : Nat} (poly c : BitVec r) (blk : List Byte) : BitVec r :=
  blk.foldl (fun c x => serialStep poly c (itemBit x)) c

theorem serialDivide_append {r : Nat} (poly c : BitVec r) (l m : List Byte) :
    serialDivide poly c (l ++ m) = serialDivide poly (serialDivide poly c l) m := List.foldl_append

theorem serialDivide_concat {r : Nat} (poly c : BitVec r) (l : List Byte) (x : Byte) :
    serialDivide poly c (l ++ [x]) = serialStep poly (serialDivide poly c l) (itemBit x) :=
  serialDivide_append poly c l [x]

/-- The bit one step shifts out. -/
theorem toNat_extractLsb'_top {r : Nat} (c : BitVec r) (h : 0 < r) :
    (c.extractLsb' (r - 1) 1).toNat = (c.getMsbD 0).toNat := by
  have hbit : c.extractLsb' (r - 1) 1 = BitVec.ofBool (c.getMsbD 0) := by
    refine BitVec.eq_of_getLsbD_eq fun i hi => ?_
    obtain rfl : i = 0 := by omega
    simp [BitVec.getMsbD, h]
  rw [hbit, BitVec.toNat_ofBool]

/-! ## Dividers by a polynomial `g` of degree `r`

What a step, a run and the table compute, said once of the number in the register. -/

/-- A divisor that an `r`-bit register and a table over its top byte can serve (41_bch.md R121 (d), R123). -/
structure IsDivisor (g r : Nat) : Prop where
  ne_zero : g ≠ 0
  degree : g.log2 = r
  eight_le : 8 ≤ r

/-- The table of a divisor: the remainder of each byte times `x^r` (41_bch.md R123). -/
def IsDivisionTable {r : Nat} (g : Nat) (lut : List (BitVec r)) : Prop :=
  ∀ b, b < 256 → (lut.getD b 0).toNat = pmod (b <<< r) g

section Divider

variable {g r : Nat}

theorem IsDivisor.pos (h : IsDivisor g r) : 0 < r := Nat.lt_of_lt_of_le (by decide) h.eight_le

theorem IsDivisor.lt_two_pow (h : IsDivisor g r) (c : BitVec r) : c.toNat < 2 ^ g.log2 := by
  rw [h.degree]
  exact c.isLt

theorem IsDivisor.pmod_lt (h : IsDivisor g r) (a : Nat) : pmod a g < 2 ^ r := by
  have hlt := pmod_lt_two_pow a h.ne_zero
  rwa [h.degree] at hlt

/-- The content of a register is its own remainder. -/
theorem IsDivisor.pmod_toNat (h : IsDivisor g r) (c : BitVec r) : pmod c.toNat g = c.toNat :=
  pmod_of_lt h.ne_zero (h.lt_two_pow c)

/-- The divisor is its top term and the coefficients below it. -/
theorem IsDivisor.two_pow_xor_low (h : IsDivisor g r) : 2 ^ r ^^^ (BitVec.ofNat r g).toNat = g := by
  obtain ⟨hg, rfl, -⟩ := h
  refine Nat.eq_of_testBit_eq fun i => ?_
  rw [Nat.testBit_xor, Nat.testBit_two_pow, BitVec.testBit_toNat, BitVec.getLsbD_ofNat]
  rcases lt_trichotomy i g.log2 with hlt | rfl | hgt
  · simp [hlt, hlt.ne']
  · simp [Nat.testBit_log2 hg]
  · have hbit : g.testBit i = false :=
      Nat.testBit_lt_two_pow (Nat.lt_log2_self.trans_le (Nat.pow_le_pow_right two_pos hgt))
    simp [hgt.ne, hbit]

/-- The remainder of `x^r` is the divisor without its top term. -/
theorem IsDivisor.pmod_one_shiftLeft (h : IsDivisor g r) : pmod (1 <<< r) g = (BitVec.ofNat r g).toNat := by
  refine (eq_pmod_of_xor_eq_pmul (q := 1) h.ne_zero (h.lt_two_pow _) ?_).symm
  rw [Nat.one_shiftLeft, h.two_pow_xor_low, pmul_one_left]

/-- One step is a shift and the input bit at `x^r`, reduced. -/
theorem toNat_serialStep (h : IsDivisor g r) (c : BitVec r) (x : Bool) :
    (serialStep (BitVec.ofNat r g) c x).toNat = pmod ((c.toNat <<< 1) ^^^ (x.toNat <<< r)) g := by
  have hgen := h.two_pow_xor_low
  rw [toNat_shiftLeft_eq_xor c h.pos, toNat_extractLsb'_top c h.pos, serialStep]
  refine eq_pmod_of_xor_eq_pmul (q := (c.getMsbD 0 != x).toNat) h.ne_zero (h.lt_two_pow _) ?_
  cases c.getMsbD 0 <;> cases x <;>
    simp [hgen, -BitVec.toNat_shiftLeft, -BitVec.toNat_ofNat, Nat.one_shiftLeft, Nat.xor_assoc, Nat.xor_left_comm]

/-- `k` steps on zeros multiply by `x^k` (41_bch.md R123). -/
theorem toNat_divStep_iterate (h : IsDivisor g r) (c : BitVec r) (k : Nat) :
    ((divStep (BitVec.ofNat r g))^[k] c).toNat = pmod (c.toNat <<< k) g := by
  induction k with
  | zero => exact (h.pmod_toNat c).symm
  | succ k ih =>
    rw [Function.iterate_succ_apply', ← serialStep_false, toNat_serialStep h, ih,
      pmod_shiftLeft_pmod_xor _ _ _ h.ne_zero, Nat.shiftLeft_add]
    simp

/-- Eight steps on a byte at the top of the register leave the remainder that the table holds for it (41_bch.md R123). -/
theorem toNat_divStep_iterate_byte (h : IsDivisor g r) {b : Nat} (hb : b < 256) :
    ((divStep (BitVec.ofNat r g))^[8] (BitVec.ofNat r b <<< (r - 8))).toNat = pmod (b <<< r) g := by
  have hfit : b <<< (r - 8) < 2 ^ r := by
    have := Nat.shiftLeft_lt (m := r - 8) (show b < 2 ^ 8 from hb)
    rwa [Nat.add_sub_cancel' h.eight_le] at this
  have hb' : b < 2 ^ r := Nat.lt_of_lt_of_le hb (Nat.pow_le_pow_right (n := 2) two_pos h.eight_le)
  rw [toNat_divStep_iterate h, BitVec.toNat_shiftLeft, BitVec.toNat_ofNat, Nat.mod_eq_of_lt hb', Nat.mod_eq_of_lt hfit,
    ← Nat.shiftLeft_add, Nat.sub_add_cancel h.eight_le]

/-- A run of the bit-serial divider reduces the block at `x^r` together with the first register, shifted past the block
(41_bch.md R135). -/
theorem toNat_serialDivide (h : IsDivisor g r) (c : BitVec r) (blk : List Byte) :
    (serialDivide (BitVec.ofNat r g) c blk).toNat = pmod ((packMsb blk <<< r) ^^^ (c.toNat <<< blk.length)) g := by
  induction blk using List.reverseRecOn with
  | nil => simpa [packMsb, serialDivide] using (h.pmod_toNat c).symm
  | append_singleton blk x ih =>
    have hsum : (packMsb (blk ++ [x]) <<< r) ^^^ (c.toNat <<< (blk ++ [x]).length) =
        ((packMsb blk <<< r ^^^ c.toNat <<< blk.length) <<< 1) ^^^ ((itemBit x).toNat <<< r) := by
      rw [packMsb_concat, List.length_append, List.length_singleton, Nat.shiftLeft_xor_distrib,
        Nat.shiftLeft_xor_distrib, ← Nat.shiftLeft_add, ← Nat.shiftLeft_add, ← Nat.shiftLeft_add, Nat.add_comm 1 r,
        Nat.xor_assoc, Nat.xor_assoc, Nat.xor_comm (c.toNat <<< _)]
    rw [serialDivide_concat, toNat_serialStep h, ih, hsum, pmod_shiftLeft_pmod_xor _ _ _ h.ne_zero]

/-- One step of table-driven division is a shift by eight places and the byte at `x^r`, reduced (41_bch.md R133). -/
theorem toNat_tableStep (h : IsDivisor g r) {lut : List (BitVec r)} (hlut : IsDivisionTable g lut) (c : BitVec r)
    (byte : Byte) : (tableStep lut c byte).toNat = pmod ((byte.toNat <<< r) ^^^ (c.toNat <<< 8)) g := by
  rw [tableStep, BitVec.toNat_xor, hlut _ (BitVec.isLt _), BitVec.toNat_xor, toNat_shiftLeft_eq_xor c h.eight_le,
    ← Nat.xor_assoc, ← Nat.shiftLeft_xor_distrib, pmod_xor _ _ h.ne_zero, h.pmod_toNat, Nat.xor_comm byte.toNat,
    Nat.xor_comm (c <<< 8).toNat]

/-- One step of table-driven division does eight steps of the bit-serial divider. -/
theorem tableStep_eq_serialDivide (h : IsDivisor g r) {lut : List (BitVec r)} (hlut : IsDivisionTable g lut)
    (c : BitVec r) {bits : List Byte} (hbits : bits.length = 8) :
    tableStep lut c (BitVec.ofNat 8 (packMsb bits)) = serialDivide (BitVec.ofNat r g) c bits := by
  have hbyte : (BitVec.ofNat 8 (packMsb bits)).toNat = packMsb bits :=
    Nat.mod_eq_of_lt (hbits ▸ packMsb_lt_two_pow bits)
  refine BitVec.eq_of_toNat_eq ?_
  rw [toNat_tableStep h hlut, toNat_serialDivide h, hbyte, hbits]

/-- Table-driven division of a block of whole bytes is bit-serial division (41_bch.md R132, R133, R135). -/
theorem tableDivide_packBytes (h : IsDivisor g r) {lut : List (BitVec r)} (hlut : IsDivisionTable g lut) (n : Nat)
    (c : BitVec r) {blk : List Byte} (hblk : blk.length = 8 * n) :
    tableDivide lut c (packBytes blk) = serialDivide (BitVec.ofNat r g) c blk := by
  induction n generalizing c blk with
  | zero =>
    obtain rfl : blk = [] := List.length_eq_zero_iff.1 hblk
    rfl
  | succ n ih =>
    have hfirst : (blk.take 8).length = 8 := by rw [List.length_take]; omega
    have hrest : (blk.drop 8).length = 8 * n := by rw [List.length_drop]; omega
    rw [← List.take_append_drop 8 blk, packBytes_append hfirst, serialDivide_append,
      ← tableStep_eq_serialDivide h hlut c hfirst, ← ih _ hrest]
    rfl

/-- A block followed by the remainder of its shift is a multiple of the divisor (41_bch.md R134). -/
theorem exists_codeword_eq_pmul (h : IsDivisor g r) (blk : List Byte) :
    ∃ q, packMsb (blk ++ bitString r (pmod (packMsb blk <<< r) g)) = pmul q g := by
  obtain ⟨q, hq⟩ := exists_xor_pmod_eq_pmul (packMsb blk <<< r) h.ne_zero
  exact ⟨q, by rw [packMsb_append, packMsb_bitString (h.pmod_lt _), length_bitString, hq]⟩

end Divider

/-! ## The CRC-32 (41_bch.md R124, R135) -/

/-- The CRC-32 polynomial with its top term. -/
def crcGenerator : Nat := 2 ^ 32 + 0x00210801

theorem isDivisor_crcGenerator : IsDivisor crcGenerator 32 := ⟨by decide, by decide, by decide⟩

theorem ofNat_crcGenerator : BitVec.ofNat 32 crcGenerator = crc32Poly := by decide

/-- The bit-serial CRC-32 is a run of the bit-serial divider. -/
theorem crc32Bits_eq_serialDivide (p : Params) (blk : List Byte) :
    crc32Bits p blk = serialDivide (BitVec.ofNat 32 crcGenerator) p.crc32Init blk ^^^ p.crc32Xorout := by
  rw [ofNat_crcGenerator]
  rfl

/-- The entries by shift-and-subtract are the remainders. -/
theorem isDivisionTable_crcTable : IsDivisionTable crcGenerator crcTable := by
  intro b hb
  rw [← toNat_divStep_iterate_byte isDivisor_crcGenerator hb, ofNat_crcGenerator, getD_crcTable hb]
  rfl

/-- Settles O30: what a run of the bit-serial divider leaves in the register. -/
theorem crcIsPolynomialRemainder : Obligations.CrcIsPolynomialRemainder := by
  unfold Obligations.CrcIsPolynomialRemainder
  intro p blk hxor
  rw [crc32Bits_eq_serialDivide, hxor, BitVec.xor_zero, toNat_serialDivide isDivisor_crcGenerator]
  rfl

/-! ## The derived state of unit 1 (41_bch.md R120 to R123) -/

/-- What a derived state of unit 1 holds, `g` being the generator of its frame size. -/
structure BchDerivedOf (g : Nat) (d : BchDerived) : Prop where
  divisor : IsDivisor g d.r
  polynome : d.polynome = BitVec.ofNat d.r g
  table : IsDivisionTable g d.lut
  crcLut : d.crcLut = crcTable
  bytes : d.kbch % 8 = 0
  nfec : d.nfec = bchNfec d.mode d.r

theorem eight_le_bchR (fs : FrameSize) : 8 ≤ bchR.get fs := by cases fs <;> decide

theorem bchDerive_spec {t : Tables} {p : Params} {u : BchRegs} {d : BchDerived} (h : bchDerive t p u = some d) :
    fecModeOf p.enums u.fecMode = some d.mode ∧
      BchDerivedOf (bchGenerator t (frameSizeOf p.enums u.frameSize)) d := by
  have hok : BchConfigOk t p u := (bchDerive_isSome_iff ..).1 (by rw [h]; rfl)
  have h8 := eight_le_bchR (frameSizeOf p.enums u.frameSize)
  have hg : bchGenerator t (frameSizeOf p.enums u.frameSize) ≠ 0 := by
    intro h0
    have hdegree := hok.degree
    rw [h0, Nat.log2_zero] at hdegree
    omega
  obtain ⟨mode, hmode⟩ := hok.mode
  rw [bchDerive_of_configOk hok hmode] at h
  obtain rfl := Option.some.inj h
  exact ⟨hmode, ⟨hg, hok.degree, h8⟩, rfl, fun _ => getD_bchTable hg hok.degree, rfl, hok.bytes, rfl⟩

/-- The step of R123 with the bit shifted out named from the low end. -/
theorem shiftSubtract_eq_divStep {r : Nat} (poly : BitVec r) (h : 0 < r) :
    (fun x : BitVec r => if x.getLsbD (r - 1) then (x <<< 1) ^^^ poly else x <<< 1) = divStep poly := by
  funext x
  rw [divStep, BitVec.getMsbD, decide_eq_true h, Bool.true_and, Nat.sub_zero]

/-- Settles O27: the remainders of the table, each left by eight steps of the divider, and the additivity of the
remainder. -/
theorem bchTableByShifts : Obligations.BchTableByShifts := by
  unfold Obligations.BchTableByShifts
  intro t p u d hd
  obtain ⟨-, hdiv, hpoly, htable, -, -, -⟩ := bchDerive_spec hd
  refine ⟨htable, fun b hb => ?_, ?_, ?_, fun a b ha hb => ?_⟩ <;> refine BitVec.eq_of_toNat_eq ?_
  · rw [shiftSubtract_eq_divStep _ hdiv.pos, hpoly, toNat_divStep_iterate_byte hdiv hb, htable b hb]
  · rw [htable 0 (by decide), Nat.zero_shiftLeft]
    exact hdiv.pmod_toNat 0
  · rw [htable 1 (by decide), hdiv.pmod_one_shiftLeft, hpoly]
  · rw [BitVec.toNat_xor, htable a ha, htable b hb, htable _ (Nat.xor_lt_two_pow (n := 8) ha hb),
      Nat.shiftLeft_xor_distrib, pmod_xor _ _ hdiv.ne_zero]

/-! ## A block's suffix (41_bch.md R131 to R136) -/

theorem length_bchSuffix (p : Params) (d : BchDerived) (blk : List Byte) :
    (bchSuffix p d blk).length = bchNfec d.mode d.r := by
  rw [bchSuffix]
  cases d.mode <;> simp [bchNfec]

theorem bchSuffix_of_none (p : Params) {d : BchDerived} (blk : List Byte) (hmode : d.mode = .none) :
    bchSuffix p d blk = [] := by
  rw [bchSuffix, hmode]

section Suffix

variable {g n : Nat} {d : BchDerived} {blk : List Byte}

/-- In mode CRC32 the table-driven register ends as the bit-serial one (R132, R135). -/
theorem bchSuffix_of_crc32 (p : Params) (hd : BchDerivedOf g d) (hblk : blk.length = 8 * n) (hmode : d.mode = .crc32) :
    bchSuffix p d blk = bitString 32 (crc32Bits p blk).toNat := by
  have hreg : crcRegister p d blk = serialDivide (BitVec.ofNat 32 crcGenerator) p.crc32Init blk := by
    rw [crcRegister, hd.crcLut, tableDivide_packBytes isDivisor_crcGenerator isDivisionTable_crcTable n _ hblk]
  rw [bchSuffix, hmode]
  simp only
  rw [emitMsb_eq_bitString, hreg, crc32Bits_eq_serialDivide]

/-- In mode BCH the register ends as the remainder of the block times `x^r` (R133, R134). -/
theorem bchSuffix_of_bch (p : Params) (hd : BchDerivedOf g d) (hblk : blk.length = 8 * n) (hmode : d.mode = .bch) :
    bchSuffix p d blk = bitString d.r (pmod (packMsb blk <<< d.r) g) := by
  have hreg : (bchParity d blk).toNat = pmod (packMsb blk <<< d.r) g := by
    rw [bchParity, tableDivide_packBytes hd.divisor hd.table n 0 hblk, toNat_serialDivide hd.divisor]
    simp
  rw [bchSuffix, hmode]
  simp only
  rw [emitMsb_eq_bitString, hreg]

end Suffix

/-- Settles O29: mode by mode, the tables against the bit-serial divider and what that leaves in the register. -/
theorem bchSuffixByMode : Obligations.BchSuffixByMode := by
  unfold Obligations.BchSuffixByMode
  intro p t u d blk hd hlen
  obtain ⟨hmode, hder⟩ := bchDerive_spec hd
  obtain ⟨n, hn⟩ := Nat.dvd_of_mod_eq_zero hder.bytes
  have hblk : blk.length = 8 * n := hlen.trans hn
  have hmode_eq {m : FecMode} (h : fecModeOf p.enums u.fecMode = some m) : d.mode = m :=
    Option.some.inj (hmode.symm.trans h)
  refine ⟨(length_bchSuffix ..).trans hder.nfec.symm, fun h => bchSuffix_of_none p blk (hmode_eq h),
    fun h => bchSuffix_of_crc32 p hder hblk (hmode_eq h), fun h => ?_⟩
  rw [bchSuffix_of_bch p hder hblk (hmode_eq h)]
  exact ⟨rfl, exists_codeword_eq_pmul hder.divisor blk⟩

end Sys2Proof.Machine
end

section
/-! SUPPORT. Unit 2 (42_ldpc.md): the codeword grows at its end, so a parity bit reads the same items in the finished
codeword as when it was made (R156, R157), and its bits are sums over GF(2). -/

namespace Sys2Proof.Machine

open Sys2Proof.Config

/-! ## The order condition (42_ldpc.md R154) -/

/-- Settles O32: type B has exactly the rows of the systematic bits, so every contribution comes from one of these. -/
theorem ldpcTypeBAlwaysOrdered : Obligations.LdpcTypeBAlwaysOrdered := by
  unfold Obligations.LdpcTypeBAlwaysOrdered
  intro t p u rows hok htype k _ i hi
  calc i < 360 * rows.length := lt_of_mem_ldpcContributions hi
    _ = u.nbch.toNat := (hok.typeB htype).2
    _ ≤ u.nbch.toNat + k := Nat.le_add_right ..

/-- What a derived state of unit 2 holds: one list per parity bit, in the order of R154. -/
theorem ldpcDerive_spec {t : Tables} {p : Params} {u : LdpcRegs} {d : LdpcDerived} (h : ldpcDerive t p u = some d) :
    d.n = d.nbch + d.p ∧ d.lut.length = d.p ∧ ∀ k, k < d.p → ∀ i ∈ d.lut.getD k [], i < d.nbch + k := by
  obtain ⟨rows, hok, horder, rfl⟩ := (ldpcDerive_eq_some_iff ..).1 h
  obtain ⟨hlen, hlists⟩ := ldpcExpand_of_configOk hok
  refine ⟨(Nat.add_sub_cancel' hok.room.le).symm, hlen, fun k hk i hi => ?_⟩
  rw [hlists] at hi
  exact horder k hk i hi

/-! ## One parity bit (42_ldpc.md R156) -/

@[simp] theorem ldpcParityBit_concat (cw : List Byte) (contrib : List Nat) (i : Nat) :
    ldpcParityBit cw (contrib ++ [i]) = (ldpcParityBit cw contrib ^^ itemBit (cw.getD i 0#8)) := by
  simp [ldpcParityBit]

/-- A parity bit reads only the items its list names. -/
theorem ldpcParityBit_congr {cw cw' : List Byte} {contrib : List Nat} (h : ∀ i ∈ contrib, cw[i]? = cw'[i]?) :
    ldpcParityBit cw contrib = ldpcParityBit cw' contrib := by
  induction contrib using List.reverseRecOn with
  | nil => rfl
  | append_singleton contrib i ih =>
    have hi : cw.getD i 0#8 = cw'.getD i 0#8 := by
      rw [List.getD_eq_getElem?_getD, List.getD_eq_getElem?_getD, h i (by simp)]
    rw [ldpcParityBit_concat, ldpcParityBit_concat, hi, ih fun j hj => h j (List.mem_append_left _ hj)]

/-- Two lists of one length, added item by item, also where neither has an item. -/
theorem getD_zipWith_xor {a b : List Byte} (hlen : a.length = b.length) (i : Nat) :
    (List.zipWith (· ^^^ ·) a b).getD i 0#8 = a.getD i 0#8 ^^^ b.getD i 0#8 := by
  rcases Nat.lt_or_ge i a.length with hi | hi <;>
    simp [List.getD_eq_getElem?_getD, hi, hlen ▸ hi]

@[simp] theorem itemBit_xor (x y : Byte) : itemBit (x ^^^ y) = (itemBit x ^^ itemBit y) := by simp [itemBit]

theorem bitItem_xor (x y : Bool) : bitItem (x ^^ y) = bitItem x ^^^ bitItem y := by
  cases x <;> cases y <;> decide

/-- A parity bit of a sum is the sum of the parity bits. -/
theorem ldpcParityBit_zipWith_xor {a b : List Byte} (hlen : a.length = b.length) (contrib : List Nat) :
    ldpcParityBit (List.zipWith (· ^^^ ·) a b) contrib = (ldpcParityBit a contrib ^^ ldpcParityBit b contrib) := by
  induction contrib using List.reverseRecOn with
  | nil => rfl
  | append_singleton contrib i ih =>
    rw [ldpcParityBit_concat, ldpcParityBit_concat, ldpcParityBit_concat, ih, getD_zipWith_xor hlen, itemBit_xor,
      Bool.xor_assoc, Bool.xor_assoc, Bool.xor_left_comm (ldpcParityBit b contrib)]

/-! ## The codeword (42_ldpc.md R156, R157) -/

@[simp] theorem ldpcCodeword_nil (blk : List Byte) : ldpcCodeword [] blk = blk := rfl

theorem ldpcCodeword_cons (contrib : List Nat) (lut : List (List Nat)) (blk : List Byte) :
    ldpcCodeword (contrib :: lut) blk = ldpcCodeword lut (blk ++ [bitItem (ldpcParityBit blk contrib)]) := rfl

theorem ldpcCodeword_append (lut lut' : List (List Nat)) (blk : List Byte) :
    ldpcCodeword (lut ++ lut') blk = ldpcCodeword lut' (ldpcCodeword lut blk) := List.foldl_append

@[simp] theorem length_ldpcCodeword (lut : List (List Nat)) (blk : List Byte) :
    (ldpcCodeword lut blk).length = blk.length + lut.length := by
  induction lut generalizing blk with
  | nil => rfl
  | cons contrib lut ih =>
    rw [ldpcCodeword_cons, ih, List.length_append, List.length_singleton, List.length_cons]
    omega

/-- The code is systematic. -/
theorem isPrefix_ldpcCodeword (lut : List (List Nat)) (blk : List Byte) : blk <+: ldpcCodeword lut blk := by
  induction lut generalizing blk with
  | nil => exact List.prefix_rfl
  | cons contrib lut ih => exact (List.prefix_append ..).trans (ih _)

/-- The codeword as built after the first `k` lists stays. -/
theorem getElem?_ldpcCodeword_take {k i : Nat} {lut : List (List Nat)} {blk : List Byte}
    (hi : i < (ldpcCodeword (lut.take k) blk).length) :
    (ldpcCodeword (lut.take k) blk)[i]? = (ldpcCodeword lut blk)[i]? := by
  have hprefix : ldpcCodeword (lut.take k) blk <+: ldpcCodeword lut blk := by
    conv_rhs => rw [← List.take_append_drop k lut, ldpcCodeword_append]
    exact isPrefix_ldpcCodeword ..
  rw [List.prefix_iff_getElem?.1 hprefix i hi, List.getElem?_eq_getElem hi]

/-- Parity item `k` is computed over the codeword as built so far. -/
theorem ldpcCodeword_take_succ {lut : List (List Nat)} {k : Nat} (hk : k < lut.length) (blk : List Byte) :
    ldpcCodeword (lut.take (k + 1)) blk =
      ldpcCodeword (lut.take k) blk ++ [bitItem (ldpcParityBit (ldpcCodeword (lut.take k) blk) (lut.getD k []))] := by
  rw [List.take_succ_eq_append_getElem hk, ldpcCodeword_append, ldpcCodeword_cons, ldpcCodeword_nil,
    List.getD_eq_getElem _ _ hk]

/-- A parity item whose list names only items before it is their sum in the finished codeword. -/
theorem getElem?_ldpcCodeword_parity {lut : List (List Nat)} {blk : List Byte} {k : Nat} (hk : k < lut.length)
    (horder : ∀ i ∈ lut.getD k [], i < blk.length + k) :
    (ldpcCodeword lut blk)[blk.length + k]? =
      some (bitItem (ldpcParityBit (ldpcCodeword lut blk) (lut.getD k []))) := by
  have hlen (j : Nat) (hj : j ≤ lut.length) : (ldpcCodeword (lut.take j) blk).length = blk.length + j := by
    rw [length_ldpcCodeword, List.length_take_of_le hj]
  have hread : ldpcParityBit (ldpcCodeword (lut.take k) blk) (lut.getD k []) =
      ldpcParityBit (ldpcCodeword lut blk) (lut.getD k []) :=
    ldpcParityBit_congr fun i hi => getElem?_ldpcCodeword_take (by rw [hlen k hk.le]; exact horder i hi)
  rw [← getElem?_ldpcCodeword_take (k := k + 1) (by rw [hlen _ hk]; omega), ldpcCodeword_take_succ hk, hread,
    ← hlen k hk.le, List.getElem?_concat_length]

/-- Settles O34: by the order condition each parity item was computed over items that stand in the finished codeword. -/
theorem ldpcParityConsistency : Obligations.LdpcParityConsistency := by
  unfold Obligations.LdpcParityConsistency
  intro t p u d blk hd hblk
  obtain ⟨hn, hlut, horder⟩ := ldpcDerive_spec hd
  rw [← hblk] at hn horder ⊢
  refine ⟨by rw [length_ldpcCodeword, hlut, hn], (List.prefix_iff_eq_take.1 (isPrefix_ldpcCodeword d.lut blk)).symm,
    fun k hk => ?_⟩
  exact getElem?_ldpcCodeword_parity (hlut.symm ▸ hk) (horder k hk)

/-- The codeword of the sum of two blocks is the sum of their codewords, whatever the bytes of their items. -/
theorem ldpcCodeword_zipWith_xor (lut : List (List Nat)) {a b : List Byte} (hlen : a.length = b.length) :
    ldpcCodeword lut (List.zipWith (· ^^^ ·) a b) =
      List.zipWith (· ^^^ ·) (ldpcCodeword lut a) (ldpcCodeword lut b) := by
  induction lut generalizing a b with
  | nil => rfl
  | cons contrib lut ih =>
    rw [ldpcCodeword_cons, ldpcCodeword_cons, ldpcCodeword_cons, ldpcParityBit_zipWith_xor hlen, bitItem_xor,
      ← ih (by simp [hlen]), List.zipWith_append hlen, List.zipWith_cons_cons, List.zipWith_nil_left]

/-- Settles O35: every parity bit is a sum, so lists of any shape give a linear map. -/
theorem ldpcCodewordIsLinear : Obligations.LdpcCodewordIsLinear := by
  unfold Obligations.LdpcCodewordIsLinear
  intro lut a b hlen _ _
  exact ldpcCodeword_zipWith_xor lut hlen

end Sys2Proof.Machine
end

section
/-! SUPPORT. Unit 3 (43_bit_interleaver.md): a gather through a permutation moves every item to an output position that
the table names, and loses none (R171, R173). -/

namespace Sys2Proof.Machine

open Sys2Proof.Config

/-! ## A gather through a permutation -/

/-- Gathering through `0 .. n-1` in order leaves a list of length `n` as it is. -/
theorem gather_range {α : Type} (dflt : α) (s : List α) : gather dflt s (List.range s.length) = s := by
  refine List.ext_getElem (by simp) fun i _ hi => ?_
  simp [gather, List.getElem?_eq_getElem hi]

/-- The rearranged index list only rearranges the output of the gather in order. -/
theorem perm_gather {α : Type} (dflt : α) {s : List α} {idx : List Nat} (hidx : idx.Perm (List.range s.length)) :
    (gather dflt s idx).Perm s := by
  have hmap : (gather dflt s idx).Perm (gather dflt s (List.range s.length)) := hidx.map _
  rwa [gather_range] at hmap

/-- An output position holds the input item that its index names. -/
theorem getElem?_gather {α : Type} (dflt : α) {s : List α} {idx : List Nat} {i j : Nat} (hi : idx[i]? = some j)
    (hj : j < s.length) : (gather dflt s idx)[i]? = s[j]? := by
  rw [gather, List.getElem?_map, hi, Option.map_some, List.getD_eq_getElem _ _ hj, List.getElem?_eq_getElem hj]

/-- Every number below `n` stands at some position of a permutation of `0 .. n-1`. -/
theorem exists_getElem?_of_perm_range {idx : List Nat} {n j : Nat} (hidx : idx.Perm (List.range n)) (hj : j < n) :
    ∃ i, i < n ∧ idx[i]? = some j := by
  have hmem : j ∈ idx := hidx.mem_iff.2 (List.mem_range.2 hj)
  obtain ⟨i, hi⟩ := List.mem_iff_getElem?.1 hmem
  have hlt : i < idx.length := (List.getElem?_eq_some_iff.1 hi).1
  exact ⟨i, by simpa [hidx.length_eq] using hlt, hi⟩

/-! ## The block interleaver -/

/-- The table of a derived state of unit 3 is a permutation of the positions of a block (R171). -/
theorem bilDerive_perm {t : Tables} {p : Params} {u : BilRegs} {d : BilDerived} (h : bilDerive t p u = some d) :
    d.perm.Perm (List.range d.n) := by
  obtain ⟨perm, hok, rfl⟩ := (bilDerive_eq_some_iff ..).1 h
  exact hok.permutes

/-- Settles O38: the table of a built unit is a permutation, so the gather through it is one of the block, and each input
position stands in the table. -/
theorem bilRearrangesTheBlock : Obligations.BilRearrangesTheBlock := by
  unfold Obligations.BilRearrangesTheBlock
  intro t p u d blk hd hblk
  have htable : d.perm.Perm (List.range d.n) := bilDerive_perm hd
  have hperm : (gather 0x00#8 blk d.perm).Perm blk := perm_gather _ (hblk.symm ▸ htable)
  refine ⟨hperm, hperm.count_eq _, fun j hj => ?_⟩
  obtain ⟨i, hi, hget⟩ := exists_getElem?_of_perm_range htable hj
  exact ⟨i, hi, by rw [List.getD_eq_getElem?_getD, hget, Option.getD_some], getElem?_gather _ hget (hblk.symm ▸ hj)⟩

end Sys2Proof.Machine
end

section
/-! SUPPORT. Unit 4 (44_frame_mapper.md): the L1-Basic record as fields that stand one after another (R186), its CRC-32
(R185, R187, R188), and `FM.L1D` (R190). -/

namespace Sys2Proof.Machine

open Sys2Proof.Config

/-! ## Fields one after another (00_scope.md R10) -/

theorem emitMsb_append {m n : Nat} (a : BitVec m) (b : BitVec n) : emitMsb (a ++ b) = emitMsb a ++ emitMsb b := by
  rw [emitMsb, List.range_add, List.map_append, List.map_map]
  congr 1
  · refine List.map_congr_left fun i hi => ?_
    rw [BitVec.getMsbD_append, if_neg (Nat.not_le.2 (List.mem_range.1 hi))]
  · refine List.map_congr_left fun i _ => ?_
    rw [Function.comp_apply, BitVec.getMsbD_append, if_pos (Nat.le_add_right m i), Nat.add_sub_cancel_left]

/-- Packing undoes emitting. -/
theorem packMsb_emitMsb {n : Nat} (v : BitVec n) : packMsb (emitMsb v) = v.toNat := by
  rw [emitMsb_eq_bitString, packMsb_bitString v.isLt]

/-- The bits of fields of any widths, in order. -/
def emitFields (fields : List (Σ n, BitVec n)) : List Byte := fields.flatMap fun f => emitMsb f.2

/-- Each of the fields is read back from its width, the first from offset `off` and each other from where the one before
it ends. -/
def FieldsFrom (bits : List Byte) : Nat → List (Σ n, BitVec n) → Prop
  | _, [] => True
  | off, ⟨n, v⟩ :: fields => packMsb ((bits.drop off).take n) = v.toNat ∧ FieldsFrom bits (off + n) fields

/-- Emitted fields are read back, whatever stands before and after them. -/
theorem fieldsFrom_append (pre post : List Byte) (fields : List (Σ n, BitVec n)) :
    FieldsFrom (pre ++ (emitFields fields ++ post)) pre.length fields := by
  induction fields generalizing pre with
  | nil => trivial
  | cons f fields ih =>
    obtain ⟨n, v⟩ := f
    have hcons : emitFields (⟨n, v⟩ :: fields) ++ post = emitMsb v ++ (emitFields fields ++ post) :=
      List.append_assoc ..
    rw [hcons]
    refine ⟨?_, ?_⟩
    · rw [List.drop_left, List.take_left' (length_emitMsb v), packMsb_emitMsb]
    · have hrest := ih (pre ++ emitMsb v)
      rwa [List.append_assoc, List.length_append, length_emitMsb] at hrest

/-! ## The L1-Basic record (44_frame_mapper.md R186) -/

/-- The fields before the variant block, rows 1 to 7 of R186. -/
def l1bLeadingFields (l : L1Basic) : List (Σ n, BitVec n) :=
  [⟨_, l.version⟩, ⟨_, l.mimoPilotEncoding⟩, ⟨_, l.llsFlag⟩, ⟨_, l.timeInfoFlag⟩, ⟨_, l.returnChannel⟩,
    ⟨_, l.paprReduction⟩, ⟨_, l.frameLengthMode⟩]

/-- The fields of the variant block, rows 8a and 8b of R186. -/
def l1bVariantFields (l : L1Basic) : FrameLengthMode → List (Σ n, BitVec n)
  | .timeAligned => [⟨_, l.frameLength⟩, ⟨_, l.excessSamples⟩]
  | .symbolAligned => [⟨_, l.timeOffset⟩, ⟨_, l.additionalSamples⟩]

/-- The fields after the variant block, with the two registers of the reserved field apart. -/
def l1bTrailingFields (l : L1Basic) : List (Σ n, BitVec n) :=
  [⟨_, l.numSubframes⟩, ⟨_, l.preambleNumSymbols⟩, ⟨_, l.preambleReducedCarriers⟩, ⟨_, l.detailContentTag⟩,
    ⟨_, l.detailSizeBytes⟩, ⟨_, l.detailFecType⟩, ⟨_, l.detailAdditionalParityMode⟩, ⟨_, l.detailTotalCells⟩,
    ⟨_, l.firstSubMimo⟩, ⟨_, l.firstSubMiso⟩, ⟨_, l.firstSubFftSize⟩, ⟨_, l.firstSubReducedCarriers⟩,
    ⟨_, l.firstSubGuardInterval⟩, ⟨_, l.firstSubNumOfdmSymbols⟩, ⟨_, l.firstSubScatteredPilotPattern⟩,
    ⟨_, l.firstSubScatteredPilotBoost⟩, ⟨_, l.firstSubSbsFirst⟩, ⟨_, l.firstSubSbsLast⟩, ⟨_, l.reservedHi⟩,
    ⟨_, l.reservedLo⟩]

theorem l1bVariantBits_eq_emitFields (e : Enums) (l : L1Basic) :
    l1bVariantBits e l = emitFields (l1bVariantFields l (frameLengthModeOf e l.frameLengthMode)) := by
  rw [l1bVariantBits]
  cases frameLengthModeOf e l.frameLengthMode <;> simp [l1bVariantFields, emitFields]

/-- The field bits are those of the three groups of fields. -/
theorem l1bFieldBits_eq_emitFields (e : Enums) (l : L1Basic) :
    l1bFieldBits e l =
      emitFields (l1bLeadingFields l) ++
        (emitFields (l1bVariantFields l (frameLengthModeOf e l.frameLengthMode)) ++
          emitFields (l1bTrailingFields l)) := by
  unfold l1bFieldBits
  rw [← l1bVariantBits_eq_emitFields]
  simp only [emitFields, l1bLeadingFields, l1bTrailingFields, emitMsb_append, List.flatMap_cons, List.flatMap_nil,
    List.append_assoc, List.append_nil]

theorem length_l1bLeading (l : L1Basic) : (emitFields (l1bLeadingFields l)).length = 11 := by
  simp [emitFields, l1bLeadingFields]

/-- The two variant blocks have one length, so the fields after them have one place. -/
theorem length_l1bVariant (l : L1Basic) (m : FrameLengthMode) : (emitFields (l1bVariantFields l m)).length = 23 := by
  cases m <;> simp [emitFields, l1bVariantFields]

theorem length_l1bTrailing (l : L1Basic) : (emitFields (l1bTrailingFields l)).length = 134 := by
  simp [emitFields, l1bTrailingFields]

theorem length_l1bFieldBits (e : Enums) (l : L1Basic) : (l1bFieldBits e l).length = 168 := by
  rw [l1bFieldBits_eq_emitFields, List.length_append, List.length_append, length_l1bLeading, length_l1bVariant,
    length_l1bTrailing]

theorem fieldsFrom_l1bLeading (e : Enums) (l : L1Basic) : FieldsFrom (l1bFieldBits e l) 0 (l1bLeadingFields l) := by
  rw [l1bFieldBits_eq_emitFields, ← List.nil_append (emitFields (l1bLeadingFields l) ++ _)]
  exact fieldsFrom_append ..

theorem fieldsFrom_l1bVariant {e : Enums} {l : L1Basic} {m : FrameLengthMode}
    (hmode : frameLengthModeOf e l.frameLengthMode = m) :
    FieldsFrom (l1bFieldBits e l) 11 (l1bVariantFields l m) := by
  rw [l1bFieldBits_eq_emitFields, hmode, ← length_l1bLeading l]
  exact fieldsFrom_append ..

theorem fieldsFrom_l1bTrailing (e : Enums) (l : L1Basic) :
    FieldsFrom (l1bFieldBits e l) 34 (l1bTrailingFields l) := by
  have h := fieldsFrom_append
    (emitFields (l1bLeadingFields l) ++ emitFields (l1bVariantFields l (frameLengthModeOf e l.frameLengthMode))) []
    (l1bTrailingFields l)
  rwa [List.append_nil, List.append_assoc, ← l1bFieldBits_eq_emitFields, List.length_append, length_l1bLeading,
    length_l1bVariant] at h

/-- Settles O41: the record is three groups of fields, and the fields of each are read back one after another from where
the group begins. -/
theorem l1bFieldsInTheirPlaces : Obligations.L1bFieldsInTheirPlaces := by
  unfold Obligations.L1bFieldsInTheirPlaces
  refine ⟨rfl, rfl, fun e l => ?_⟩
  obtain ⟨version, mimoPilotEncoding, llsFlag, timeInfoFlag, returnChannel, paprReduction, frameLengthMode, -⟩ :=
    fieldsFrom_l1bLeading e l
  obtain ⟨numSubframes, preambleNumSymbols, preambleReducedCarriers, detailContentTag, detailSizeBytes, detailFecType,
    detailAdditionalParityMode, detailTotalCells, firstSubMimo, firstSubMiso, firstSubFftSize, firstSubReducedCarriers,
    firstSubGuardInterval, firstSubNumOfdmSymbols, firstSubScatteredPilotPattern, firstSubScatteredPilotBoost,
    firstSubSbsFirst, firstSubSbsLast, reservedHi, reservedLo, -⟩ := fieldsFrom_l1bTrailing e l
  refine ⟨List.all_eq_true.1 (all_isBitItem_l1bFieldBits e l), version, mimoPilotEncoding, llsFlag, timeInfoFlag,
    returnChannel, paprReduction, frameLengthMode, fun hmode => ?timeAligned, fun hmode => ?symbolAligned, numSubframes,
    preambleNumSymbols, preambleReducedCarriers, detailContentTag, detailSizeBytes, detailFecType,
    detailAdditionalParityMode, detailTotalCells, firstSubMimo, firstSubMiso, firstSubFftSize, firstSubReducedCarriers,
    firstSubGuardInterval, firstSubNumOfdmSymbols, firstSubScatteredPilotPattern, firstSubScatteredPilotBoost,
    firstSubSbsFirst, firstSubSbsLast, reservedHi, reservedLo, length_l1bFieldBits e l⟩
  case timeAligned =>
    obtain ⟨frameLength, excessSamples, -⟩ := fieldsFrom_l1bVariant hmode
    exact ⟨frameLength, excessSamples⟩
  case symbolAligned =>
    obtain ⟨timeOffset, additionalSamples, -⟩ := fieldsFrom_l1bVariant hmode
    exact ⟨timeOffset, additionalSamples⟩

/-! ## The commands of L1 signalling (44_frame_mapper.md R185, R190) -/

/-- Settles O40: a built unit passes the one check, and the bits of the CRC-32 are those of its number. -/
theorem fmL1bCompletes : Obligations.FmL1bCompletes := by
  unfold Obligations.FmL1bCompletes
  intro s hb
  refine ⟨?_, length_l1bFieldBits ..⟩
  rw [show exec .fmL1b s = execFmL1b s from rfl, execFmL1b, streaming_of_ready hb, l1bBitsOf, emitMsb_eq_bitString]

/-- Settles O16: the command raises its error without looking at the state. -/
theorem fmL1dAlwaysUnimplemented : Obligations.FmL1dAlwaysUnimplemented := by
  unfold Obligations.FmL1dAlwaysUnimplemented
  intro s
  have hword : encode .fmL1d = 0x42000000#32 := by decide
  have hraised : Raised .unimplemented UnitId.fm.number (encode .fmL1d) s
      (raise .unimplemented UnitId.fm.number (encode .fmL1d) s) := raised_raise ..
  exact ⟨_, rfl, hword ▸ hraised⟩

end Sys2Proof.Machine
end

section
/-! SUPPORT. Unit 5 (45_freq_interleaver.md): the bit permutation, the addresses of a pass in closed form, the inverse of a
permutation, and the table that a symbol of a built unit goes through. -/

namespace Sys2Proof.Machine

open Sys2Proof.Config

/-! ## The bit permutation (R213) -/

/-- A bit of the loop's result was there before, or one of the pairs moved it there. -/
theorem getLsbD_bitperm_foldl {w : Nat} (reg : BitVec w) (moves : List (Nat × Nat)) (y : BitVec w) (j : Nat) :
    (moves.foldl (fun y e => if reg.getLsbD e.2 then y ||| BitVec.twoPow w e.1 else y) y).getLsbD j =
      (y.getLsbD j || (decide (j < w) && moves.any fun e => decide (e.1 = j) && reg.getLsbD e.2)) := by
  induction moves generalizing y with
  | nil => simp
  | cons e moves ih =>
    rw [List.foldl_cons, ih, List.any_cons]
    by_cases hbit : reg.getLsbD e.2 = true
    · rw [if_pos hbit, BitVec.getLsbD_or, BitVec.getLsbD_twoPow, hbit, Bool.and_true, Bool.and_or_distrib_left,
        Bool.or_assoc]
      by_cases hj : e.1 = j <;> simp [hj]
    · simp [hbit]

/-- A bit is set in the result if a set bit has its place there. -/
theorem getLsbD_bitperm_eq_true_iff {w : Nat} {reg : BitVec w} {positions : List Nat} {j : Nat} :
    (bitperm reg positions).getLsbD j = true ↔ j < w ∧ ∃ n, positions[n]? = some j ∧ reg.getLsbD n = true := by
  rw [bitperm, getLsbD_bitperm_foldl]
  simp only [BitVec.ofNat_eq_ofNat, BitVec.getLsbD_zero, Bool.false_or, Bool.and_eq_true, decide_eq_true_eq,
    List.any_eq_true, Prod.exists, List.mk_mem_zipIdx_iff_getElem?]
  refine and_congr_right fun _ => ⟨?_, ?_⟩
  · rintro ⟨_, n, hn, rfl, hbit⟩
    exact ⟨n, hn, hbit⟩
  · rintro ⟨n, hn, hbit⟩
    exact ⟨j, n, hn, rfl, hbit⟩

/-- Distinct places keep the bits apart: the bit at the place of `n` is bit `n`. -/
theorem getLsbD_bitperm {w : Nat} {positions : List Nat} (hperm : positions.Perm (List.range w)) (x : BitVec w) {n : Nat}
    (hn : n < w) : (bitperm x positions).getLsbD (positions.getD n 0) = x.getLsbD n := by
  have hlen : n < positions.length := by rwa [hperm.length_eq, List.length_range]
  have hnodup : positions.Nodup := hperm.nodup_iff.2 List.nodup_range
  have hget : positions[n]? = some (positions.getD n 0) := getElem?_eq_some_getD hlen 0
  have hplace : positions.getD n 0 < w := List.mem_range.1 (hperm.mem_iff.1 (List.mem_of_getElem? hget))
  rw [Bool.eq_iff_iff, getLsbD_bitperm_eq_true_iff]
  constructor
  · rintro ⟨-, m, hm, hbit⟩
    have hmn : n = m := (List.getElem?_inj hlen hnodup).1 (hget.trans hm.symm)
    rwa [hmn]
  · intro hbit
    exact ⟨hplace, n, hget, hbit⟩

/-- Two values with one image agree in every bit. -/
theorem bitperm_injective {w : Nat} {positions : List Nat} (hperm : positions.Perm (List.range w)) :
    Function.Injective fun x : BitVec w => bitperm x positions := by
  intro x y hxy
  refine BitVec.eq_of_getLsbD_eq fun n hn => ?_
  rw [← getLsbD_bitperm hperm x hn, ← getLsbD_bitperm hperm y hn]
  exact congrArg (BitVec.getLsbD · _) hxy

/-- There are finitely many values of a width, so the injection is onto. -/
theorem bitperm_bijective {w : Nat} {positions : List Nat} (hperm : positions.Perm (List.range w)) :
    Function.Bijective fun x : BitVec w => bitperm x positions := by
  have : Finite (BitVec w) := .of_equiv _ BitVec.equivFin.symm.toEquiv
  exact Finite.injective_iff_bijective.1 (bitperm_injective hperm)

/-- Settles O46: each bit is read back at its place, so the map is injective on a finite set. -/
theorem bitpermIsABijection : Obligations.BitpermIsABijection := by
  unfold Obligations.BitpermIsABijection
  exact fun w positions hperm => ⟨fun x n => getLsbD_bitperm hperm x, bitperm_bijective hperm⟩

/-! ## The values and the addresses of a pass (R212, R214, R216) -/

/-- The generator's value at step `i`: 0, 0, 1, and then each from the one before (R214). -/
def fiValueAt {w : Nat} (step : BitVec w → BitVec w) (i : Nat) : BitVec w := if i < 2 then 0 else step^[i - 2] 1

theorem fiValueAt_of_lt {w : Nat} (step : BitVec w → BitVec w) {i : Nat} (h : i < 2) : fiValueAt step i = 0 := if_pos h

@[simp] theorem fiValueAt_add_two {w : Nat} (step : BitVec w → BitVec w) (k : Nat) :
    fiValueAt step (k + 2) = step^[k] 1 := if_neg (by omega)

theorem fiValueAt_of_ge {w : Nat} (step : BitVec w → BitVec w) {i : Nat} (h : 3 ≤ i) :
    fiValueAt step i = step (fiValueAt step (i - 1)) := by
  obtain ⟨k, rfl⟩ := Nat.exists_eq_add_of_le' h
  rw [show k + 3 = k + 1 + 2 from rfl, show k + 1 + 2 - 1 = k + 2 from rfl, fiValueAt_add_two, fiValueAt_add_two,
    Function.iterate_succ_apply']

theorem fiSequence_eq_map {w : Nat} (step : BitVec w → BitVec w) (k : Nat) (reg : BitVec w) :
    fiSequence step k reg = (List.range k).map fun j => step^[j] reg := by
  induction k generalizing reg with
  | zero => rfl
  | succ k ih =>
    rw [fiSequence, ih, List.range_succ_eq_map, List.map_cons, List.map_map]
    rfl

/-- The values of a pass, one for each step. -/
theorem fiRaw_eq_map {w : Nat} (step : BitVec w → BitVec w) {m : Nat} (hm : 2 ≤ m) :
    fiRaw step m = (List.range m).map (fiValueAt step) := by
  obtain ⟨k, rfl⟩ := Nat.exists_eq_add_of_le' hm
  have hall : (0 :: 0 :: fiSequence step k 1).length ≤ k + 2 := by simp [fiSequence_eq_map]
  rw [fiRaw, Nat.add_sub_cancel, List.take_of_length_le hall, fiSequence_eq_map, List.range_succ_eq_map,
    List.range_succ_eq_map]
  simp [fiValueAt_of_lt, Function.comp_def]

/-- The three parts of an address, put together as numbers (R212). -/
theorem fiAddress_eq_xor {w off : Nat} (hoff : off < 2 ^ (w + 1)) (positions : List Nat) (i : Nat) (reg : BitVec w) :
    fiAddress w positions off i reg = (bitperm reg positions).toNat ^^^ off ^^^ (i % 2 * 2 ^ w) := by
  have hreg : (bitperm reg positions).toNat < 2 ^ (w + 1) :=
    (bitperm reg positions).isLt.trans (Nat.pow_lt_pow_succ (by omega))
  have htop : (if i % 2 = 1 then BitVec.twoPow (w + 1) w else 0).toNat = i % 2 * 2 ^ w := by
    rcases Nat.mod_two_eq_zero_or_one i with h | h
    · simp [h]
    · rw [if_pos h, h, Nat.one_mul, BitVec.toNat_twoPow_of_lt (Nat.lt_succ_self w)]
  rw [fiAddress, BitVec.toNat_xor, BitVec.toNat_xor, htop, BitVec.toNat_setWidth, BitVec.toNat_ofNat,
    Nat.mod_eq_of_lt hreg, Nat.mod_eq_of_lt hoff]

/-- The addresses of a pass, one for each step. -/
theorem fiAddresses_eq_map {w m : Nat} (positions : List Nat) (off : Nat) (step : BitVec w → BitVec w) (hm : 2 ≤ m) :
    fiAddresses w positions off (fiRaw step m) =
      (List.range m).map fun i => fiAddress w positions off i (fiValueAt step i) := by
  rw [fiRaw_eq_map step hm]
  refine List.ext_getElem (by simp [fiAddresses]) fun i _ _ => ?_
  simp [fiAddresses]

/-- The addresses of the pass of symbol `l` in the role that permutes its bits by `positions`. -/
def fiRoleAddresses (t : Tables) (fft : Fft) (nr l : Nat) (positions : List Nat) : List Nat :=
  fiAddresses (nr - 1) positions ((t.fiSymoff.get fft).getD (l / 2) 0) (fiRawFor t fft nr (l % 2))

theorem fiRoleAddresses_eq_map {nr l : Nat} (t : Tables) (fft : Fft) (positions : List Nat) (hnr : 2 ≤ nr)
    (hoff : (t.fiSymoff.get fft).getD (l / 2) 0 < 2 ^ nr) :
    fiRoleAddresses t fft nr l positions = (List.range (2 ^ nr)).map fun i =>
      (bitperm (fiValueAt (w := nr - 1) (fiStepOf (fiStepFor t fft (l % 2)) (t.fiLogic.get fft)) i) positions).toNat
        ^^^ (t.fiSymoff.get fft).getD (l / 2) 0 ^^^ (i % 2 * 2 ^ (nr - 1)) := by
  have hwidth : nr - 1 + 1 = nr := Nat.sub_add_cancel (by omega)
  have hm : 2 ≤ 2 ^ nr := Nat.le_self_pow (by omega) 2
  rw [fiRoleAddresses, fiRawFor, fiAddresses_eq_map positions _ _ hm]
  exact List.map_congr_left fun i _ => fiAddress_eq_xor (hwidth.symm ▸ hoff) ..

/-! ## The vectors of a pass (R217, R218) -/

theorem fiPass_of_ne_k32 {fft : Fft} (h : fft ≠ .k32) (t : Tables) (geo : Geometry) (nr l : Nat) :
    fiPass t fft geo nr l =
      fiFilter geo (fiRoleAddresses t fft nr l (t.fiBitpermEven.get fft))
        (fiRoleAddresses t fft nr l (t.fiBitpermOdd.get fft)) :=
  if_neg h

theorem fiPass_k32 (t : Tables) (geo : Geometry) (nr l : Nat) :
    fiPass t .k32 geo nr l =
      fiInvert (fiFilter geo (fiRoleAddresses t .k32 nr l (t.fiBitpermEven.get .k32))
        (fiRoleAddresses t .k32 nr l (t.fiBitpermOdd.get .k32))) := by
  rw [fiPass, if_pos rfl]
  rfl

/-- Settles O45: the generator's values are `fiValueAt`, and the inversion at 32K replaces the even-role vectors alone. -/
theorem fiPassByItsSteps : Obligations.FiPassByItsSteps := by
  unfold Obligations.FiPassByItsSteps
  intro t fft geo nr l hnr step off even odd hoff
  refine ⟨fiValueAt step, rfl, rfl, rfl, fun i hi => fiValueAt_of_ge step hi, ?_⟩
  intro addr he ho v
  have heven : fiRoleAddresses t fft nr l even = he := fiRoleAddresses_eq_map t fft even hnr hoff
  have hodd : fiRoleAddresses t fft nr l odd = ho := fiRoleAddresses_eq_map t fft odd hnr hoff
  by_cases hfft : fft = .k32
  · subst hfft
    have hv : v = fiInvert (fiFilter geo he ho) := heven ▸ hodd ▸ fiPass_k32 t geo nr l
    rw [hv]
    exact ⟨rfl, rfl, rfl, rfl, fun h => absurd rfl h⟩
  · have hv : v = fiFilter geo he ho := heven ▸ hodd ▸ fiPass_of_ne_k32 hfft t geo nr l
    rw [hv]
    exact ⟨rfl, rfl, rfl, rfl, fun _ => ⟨rfl, rfl, rfl, rfl⟩⟩

/-! ## A generator that walks all non-zero values (R214, R215) -/

/-- A number is its low `w` bits and the rest. -/
theorem mod_xor_div_two_pow (c w : Nat) : (c % 2 ^ w) ^^^ (c / 2 ^ w * 2 ^ w) = c := by
  refine Nat.eq_of_testBit_eq fun j => ?_
  rw [Nat.testBit_xor, Nat.testBit_mod_two_pow, Nat.testBit_mul_two_pow, Nat.testBit_div_two_pow]
  by_cases hj : j < w
  · simp [hj, Nat.not_le.2 hj]
  · simp [hj, Nat.not_lt.1 hj]

/-- Every address belongs to one value at the steps of one parity. -/
theorem exists_fiAddress_eq {w off a : Nat} {positions : List Nat} (hperm : positions.Perm (List.range w))
    (hoff : off < 2 ^ (w + 1)) (ha : a < 2 ^ (w + 1)) :
    ∃ (x : BitVec w) (p : Nat), p < 2 ∧ ∀ i, i % 2 = p → fiAddress w positions off i x = a := by
  have hc : a ^^^ off < 2 ^ (w + 1) := Nat.xor_lt_two_pow ha hoff
  obtain ⟨x, hx⟩ := (bitperm_bijective hperm).2 (BitVec.ofNat w (a ^^^ off))
  refine ⟨x, (a ^^^ off) / 2 ^ w, Nat.div_lt_of_lt_mul (by rwa [← Nat.pow_succ]), fun i hi => ?_⟩
  have hlow : (bitperm x positions).toNat = (a ^^^ off) % 2 ^ w := by
    rw [show bitperm x positions = _ from hx, BitVec.toNat_ofNat]
  rw [fiAddress_eq_xor hoff, hi, hlow, Nat.xor_right_comm, mod_xor_div_two_pow, Nat.xor_assoc, Nat.xor_self, Nat.xor_zero]

/-- The cycle's length is odd and a pass walks it twice, so each value stands at steps of both parities. -/
theorem exists_fiValueAt_eq {w : Nat} {next : BitVec w → BitVec w} (hw : 1 ≤ w)
    (hcover : ∀ x : BitVec w, x ≠ 0 → ∃ k, k < 2 ^ w - 1 ∧ next^[k] 1 = x) (hcycle : next^[2 ^ w - 1] 1 = 1)
    (x : BitVec w) {p : Nat} (hp : p < 2) : ∃ i, i < 2 ^ (w + 1) ∧ i % 2 = p ∧ fiValueAt next i = x := by
  obtain ⟨v, rfl⟩ := Nat.exists_eq_add_of_le' hw
  have hpos : 0 < 2 ^ v := Nat.two_pow_pos v
  have hdouble : 2 ^ (v + 1) = 2 * 2 ^ v := Nat.pow_succ'
  have hfour : 2 ^ (v + 1 + 1) = 4 * 2 ^ v := by rw [Nat.pow_succ', hdouble]; omega
  by_cases hx : x = 0
  · exact ⟨p, by omega, Nat.mod_eq_of_lt hp, by rw [hx, fiValueAt_of_lt next hp]⟩
  obtain ⟨k, hk, hkx⟩ := hcover x hx
  by_cases hpar : k % 2 = p
  · exact ⟨k + 2, by omega, by omega, by rw [fiValueAt_add_two, hkx]⟩
  · refine ⟨k + (2 ^ (v + 1) - 1) + 2, by omega, by omega, ?_⟩
    rw [fiValueAt_add_two, Function.iterate_add_apply, hcycle, hkx]

/-- A list of `n` entries that holds every number below `n` is a permutation of them. -/
theorem perm_range_of_forall_mem {l : List Nat} {n : Nat} (hlen : l.length = n) (hmem : ∀ a, a < n → a ∈ l) :
    l.Perm (List.range n) := by
  have hsub : List.range n ⊆ l := fun a ha => hmem a (List.mem_range.1 ha)
  exact ((List.nodup_range.subperm hsub).perm_of_length_le (by simp [hlen])).symm

/-- Settles O47: every address is reached, by a value at a step of the right parity, and there are as many steps as
addresses. -/
theorem fullCycleGivesAPermutation : Obligations.FullCycleGivesAPermutation := by
  unfold Obligations.FullCycleGivesAPermutation
  intro w next positions off hw hperm hoff hcover hcycle
  have hm : 2 ≤ 2 ^ (w + 1) := Nat.le_self_pow (by omega) 2
  rw [fiAddresses_eq_map positions off next hm]
  refine perm_range_of_forall_mem (by simp) fun a ha => ?_
  obtain ⟨x, p, hp, haddr⟩ := exists_fiAddress_eq hperm hoff ha
  obtain ⟨i, hi, hpar, hval⟩ := exists_fiValueAt_eq hw hcover hcycle x hp
  exact List.mem_map.2 ⟨i, List.mem_range.2 hi, by rw [hval, haddr i hpar]⟩

/-! ## The vectors of a built unit (R218, R219) -/

/-- The inverse undoes the permutation (R218). -/
theorem getElem?_inversePerm {l : List Nat} {c n : Nat} (hperm : l.Perm (List.range c)) (hn : n < l.length) :
    (inversePerm l)[l.getD n 0]? = some n := by
  have hnodup : l.Nodup := hperm.nodup_iff.2 List.nodup_range
  have hlen : l.length = c := by simpa using hperm.length_eq
  have hlt : l[n] < l.length := hlen ▸ List.mem_range.1 (hperm.mem_iff.1 (List.getElem_mem hn))
  rw [List.getD_eq_getElem _ _ hn, inversePerm, List.getElem?_map, List.getElem?_range hlt, Option.map_some,
    hnodup.idxOf_getElem n hn]

/-- What the vectors of a derived state of unit 5 are. -/
theorem fiDerive_vectors {t : Tables} {p : Params} {u : FiRegs} {d : FiDerived} (h : fiDerive t p u = some d) :
    d.vectors.length = d.geom.symbols ∧
      ∀ v ∈ d.vectors, FiVectorsPerm d.geom v ∧ ∃ nr l, v = fiPass t d.fft d.geom nr l := by
  obtain ⟨k, geo, nr, -, -, hvectors, rfl⟩ := (fiDerive_eq_some_iff ..).1 h
  refine ⟨by simp, fun v hv => ?_⟩
  obtain ⟨l, hl, rfl⟩ := List.mem_map.1 hv
  exact ⟨hvectors l (List.mem_range.1 hl), nr, l, rfl⟩

/-- At 32K the even-role vector of each regime is the inverse of the odd-role one. -/
theorem fiPass_k32_inverse (t : Tables) (geo : Geometry) (nr l : Nat) :
    (fiPass t .k32 geo nr l).hevenFP = inversePerm (fiPass t .k32 geo nr l).hoddFP ∧
      (fiPass t .k32 geo nr l).hevenP = inversePerm (fiPass t .k32 geo nr l).hoddP ∧
      (fiPass t .k32 geo nr l).hevenSBS = inversePerm (fiPass t .k32 geo nr l).hoddSBS ∧
      (fiPass t .k32 geo nr l).heven = inversePerm (fiPass t .k32 geo nr l).hodd := by
  rw [fiPass_k32]
  exact ⟨rfl, rfl, rfl, rfl⟩

/-- Settles O48: check (c) of R211 has passed, and at 32K each even-role vector was made as an inverse. -/
theorem builtTablesArePermutations : Obligations.BuiltTablesArePermutations := by
  unfold Obligations.BuiltTablesArePermutations
  intro s hvalid hbuilt
  obtain ⟨hlen, hvectors⟩ := fiDerive_vectors (hvalid.fi hbuilt)
  refine ⟨hlen, fun v hv => ?_⟩
  obtain ⟨hperm, nr, l, hpass⟩ := hvectors v hv
  refine ⟨hperm, fun hfft => ?_⟩
  rw [hfft] at hpass
  obtain ⟨hFP, hP, hSBS, hdata⟩ := fiPass_k32_inverse s.tables s.fi.der.geom nr l
  rw [← hpass] at hFP hP hSBS hdata
  simp only [List.forall_mem_cons, List.not_mem_nil, false_imp_iff, implies_true, and_true]
  rw [hFP, hP, hSBS, hdata]
  exact ⟨fun n => getElem?_inversePerm hperm.hoddFP, fun n => getElem?_inversePerm hperm.hoddP,
    fun n => getElem?_inversePerm hperm.hoddSBS, fun n => getElem?_inversePerm hperm.hodd⟩

/-! ## The table of a symbol (R221) -/

section Table

variable {d : FiDerived} {l : Nat} {v : FiVectors} (hv : d.vectors[l]? = some v)

include hv

/-- Symbol 0 has even parity, so of its two tables it takes the even-role one. -/
theorem fiTable_first (h0 : l = 0) (hty : d.geom.symType.getD l .data = .preamble) : fiTable d l = v.hevenFP := by
  subst h0
  simp only [fiTable, hv, hty, if_true, Nat.zero_mod]

theorem fiTable_preamble (h0 : 0 < l) (hty : d.geom.symType.getD l .data = .preamble) :
    fiTable d l = if l % 2 = 0 then v.hevenP else v.hoddP := by
  simp only [fiTable, hv, hty, if_neg h0.ne']

theorem fiTable_sbs (hty : d.geom.symType.getD l .data = .sbs) :
    fiTable d l = if l % 2 = 0 then v.hevenSBS else v.hoddSBS := by
  simp only [fiTable, hv, hty]

theorem fiTable_data (hty : d.geom.symType.getD l .data = .data) :
    fiTable d l = if l % 2 = 0 then v.heven else v.hodd := by
  simp only [fiTable, hv, hty]

end Table

/-- What a built unit knows of the symbol that the vectors `v` are for. -/
structure FiSymbolOk (d : FiDerived) (l : Nat) (v : FiVectors) : Prop where
  vectors : FiVectorsPerm d.geom v
  firstType : d.geom.symType.getD 0 .data = .preamble
  firstCells : d.geom.frameCells.getD 0 0 = d.geom.nFp
  cells : 0 < l →
    (d.geom.symType.getD l .data = .preamble → d.geom.frameCells.getD l 0 = d.geom.nP) ∧
      (d.geom.symType.getD l .data = .sbs → d.geom.frameCells.getD l 0 = d.geom.nSbs) ∧
      (d.geom.symType.getD l .data = .data → d.geom.frameCells.getD l 0 = d.geom.nData)

theorem fiSymbolOk_of_fiDerive {t : Tables} {p : Params} {u : FiRegs} {d : FiDerived} {l : Nat} {v : FiVectors}
    (h : fiDerive t p u = some d) (hv : d.vectors[l]? = some v) : FiSymbolOk d l v := by
  obtain ⟨hlen, hvectors⟩ := fiDerive_vectors h
  have hl : l < d.geom.symbols := hlen ▸ (List.getElem?_eq_some_iff.1 hv).1
  obtain ⟨k, geo, nr, hgeom, -, -, rfl⟩ := (fiDerive_eq_some_iff ..).1 h
  have hpos : 0 < geo.symbols := symbols_pos_of_geomConfigOk hgeom
  have hpreamble : 0 < k.numPreambleSyms.toNat := hgeom.numPreambleSyms ▸ hgeom.somePreamble
  exact
    { vectors := (hvectors v (List.mem_of_getElem? hv)).1
      firstType := (hgeom.wf.preambles 0 hpos).2 hpreamble
      firstCells := hgeom.wf.firstCells
      cells := fun h0 => hgeom.wf.cells l h0 hl }

/-- The table of a symbol is a permutation of the symbol's positions (R219). -/
theorem fiTable_perm {d : FiDerived} {l : Nat} {v : FiVectors} (hv : d.vectors[l]? = some v) (h : FiSymbolOk d l v) :
    (fiTable d l).Perm (List.range (d.geom.frameCells.getD l 0)) := by
  obtain rfl | h0 := Nat.eq_zero_or_pos l
  · rw [fiTable_first hv rfl h.firstType, h.firstCells]
    exact h.vectors.hevenFP
  obtain ⟨hpre, hsbs, hdata⟩ := h.cells h0
  cases hty : d.geom.symType.getD l .data with
  | preamble =>
    rw [fiTable_preamble hv h0 hty, hpre hty]
    split
    · exact h.vectors.hevenP
    · exact h.vectors.hoddP
  | sbs =>
    rw [fiTable_sbs hv hty, hsbs hty]
    split
    · exact h.vectors.hevenSBS
    · exact h.vectors.hoddSBS
  | data =>
    rw [fiTable_data hv hty, hdata hty]
    split
    · exact h.vectors.heven
    · exact h.vectors.hodd

/-! ## A symbol through its table (R220, R222, R223) -/

theorem fiSymbol_of_unchanged {d : FiDerived} {l : Nat} (hmode : d.mode = .preambleOnly)
    (hty : d.geom.symType.getD l .data ≠ .preamble) (x : List Cell) : fiSymbol d l x = x := if_pos ⟨hmode, hty⟩

theorem fiSymbol_of_preamble {d : FiDerived} {l : Nat} (hty : d.geom.symType.getD l .data = .preamble) (x : List Cell) :
    fiSymbol d l x = gather noCell x (fiTable d l) := if_neg fun h => h.2 hty

theorem fiSymbol_of_allSymbols {d : FiDerived} (hmode : d.mode = .allSymbols) (l : Nat) (x : List Cell) :
    fiSymbol d l x = gather noCell x (fiTable d l) := if_neg fun h => by simp [hmode] at h

/-- A symbol leaves as it came or gathered through a permutation of its positions. -/
theorem fiSymbol_perm {d : FiDerived} {l : Nat} {x : List Cell} (htable : (fiTable d l).Perm (List.range x.length)) :
    (fiSymbol d l x).Perm x := by
  unfold fiSymbol
  split
  · exact .refl x
  · exact perm_gather noCell htable

/-- Settles O50: the regime's table, by the symbol's place and type, and the gather through it. -/
theorem fiSymbolThroughItsTable : Obligations.FiSymbolThroughItsTable := by
  unfold Obligations.FiSymbolThroughItsTable
  intro s l x v hvalid hbuilt hv hx ty through out
  have hok : FiSymbolOk s.fi.der l v := fiSymbolOk_of_fiDerive (hvalid.fi hbuilt) hv
  refine ⟨fun hmode hty => fiSymbol_of_unchanged hmode hty x, fun h0 => ?first, fun h0 hty => ?preamble,
    fun hmode hty => ?sbs, fun hmode hty => ?data, fiSymbol_perm (hx ▸ fiTable_perm hv hok)⟩
  case first =>
    have hty : ty = .preamble := by rw [← hok.firstType, ← h0]
    exact (fiSymbol_of_preamble hty x).trans (congrArg _ (fiTable_first hv h0 hty))
  case preamble => exact (fiSymbol_of_preamble hty x).trans (congrArg _ (fiTable_preamble hv h0 hty))
  case sbs => exact (fiSymbol_of_allSymbols hmode l x).trans (congrArg _ (fiTable_sbs hv hty))
  case data => exact (fiSymbol_of_allSymbols hmode l x).trans (congrArg _ (fiTable_data hv hty))

end Sys2Proof.Machine
end

section
/-! SUPPORT. The tone-reservation reduction over the real numbers (46_papr_tr.md R246 to R254): the reserved tones of a
symbol, the phases and the kernel, the peak and the clamp, and what one correction and the whole loop keep. -/

namespace Sys2Proof.Machine

open Sys2Proof.Config

/-! ## The reserved tones (R246) -/

/-- A cyclic shift keeps positions apart. -/
theorem nodup_map_add_mod {n : Nat} {tones : List Nat} (hnodup : tones.Nodup) (hlt : ∀ k ∈ tones, k < n) (sh : Nat) :
    (tones.map fun k => (k + sh) % n).Nodup :=
  hnodup.map_on fun j hj k hk hjk => (Nat.ModEq.add_right_cancel' sh hjk).eq_of_lt_of_lt (hlt j hj) (hlt k hk)

theorem trToneSet_of_ne_data {n : Nat} {tones : List Nat} {ty : SymType} (hlt : ∀ k ∈ tones, k < n) (hty : ty ≠ .data)
    (dx dy offset l : Nat) : trToneSet n tones dx dy offset ty l = tones := by
  rw [trToneSet, if_neg hty]
  exact (List.map_congr_left fun k hk => Nat.mod_eq_of_lt (hlt k hk)).trans (List.map_id _)

/-- Settles O55: a shift modulo `n` is injective below `n`, and the shift's multiple of `dx` is a floored remainder. -/
theorem toneSetIsACyclicShift : Obligations.ToneSetIsACyclicShift := by
  unfold Obligations.ToneSetIsACyclicShift
  intro n dx dy offset l tones ty hnodup hlt hdy
  have hdy' : (0 : Int) < dy := by exact_mod_cast hdy
  refine ⟨?below, nodup_map_add_mod hnodup hlt _, List.length_map _, fun hty => trToneSet_of_ne_data hlt hty .., ?data⟩
  case below =>
    intro k hk
    obtain ⟨tone, htone, rfl⟩ := List.mem_map.1 hk
    exact Nat.mod_lt _ (Nat.zero_lt_of_lt (hlt tone htone))
  case data =>
    intro hty
    have hrem : ((((l : Int) - offset) % dy).toNat : Int) = ((l : Int) - offset) % dy :=
      Int.toNat_of_nonneg (Int.emod_nonneg _ hdy'.ne')
    refine ⟨(((l : Int) - offset) % dy).toNat, ?_, ?_, by rw [trToneSet, if_pos hty]⟩
    · have := Int.emod_lt_of_pos ((l : Int) - offset) hdy'
      omega
    · rw [hrem]
      exact (Int.mod_modEq _ _).symm

/-! ## Phases and the kernel (R247) -/

@[simp] theorem trPhase_zero (n : Nat) : trPhase n 0 = 1 := by simp [trPhase]

theorem trPhase_add (n : Nat) (j k : Int) : trPhase n (j + k) = trPhase n j * trPhase n k := by
  rw [trPhase, trPhase, trPhase, ← Complex.exp_add]
  push_cast
  ring_nf

@[simp] theorem norm_trPhase (n : Nat) (k : Int) : ‖trPhase n k‖ = 1 := by
  have harg : 2 * Real.pi * Complex.I * k / n = ((2 * Real.pi * k / n : ℝ) : ℂ) * Complex.I := by
    push_cast
    ring
  rw [trPhase, harg, Complex.norm_exp_ofReal_mul_I]

/-- A whole turn: the phases have period `n`. -/
theorem trPhase_mul_self {n : Nat} (hn : 0 < n) (j : Int) : trPhase n (n * j) = 1 := by
  have hn' : (n : ℂ) ≠ 0 := by exact_mod_cast hn.ne'
  rw [trPhase, ← Complex.exp_int_mul_two_pi_mul_I j]
  congr 1
  push_cast
  field_simp

theorem trPhase_mul_emod {n : Nat} (hn : 0 < n) (k m : Int) : trPhase n (k * (m % n)) = trPhase n (k * m) := by
  have hsplit : k * m = k * (m % n) + n * (k * (m / n)) := by
    conv_lhs => rw [← Int.emod_add_mul_ediv m n]
    ring
  rw [hsplit, trPhase_add, trPhase_mul_self hn, mul_one]

theorem trPhase_natCast_mul (n k m : Nat) :
    trPhase n ((k : Int) * (m : Int)) = Complex.exp (2 * Real.pi * Complex.I * ((k : ℂ) * (m : ℂ)) / (n : ℂ)) := by
  rw [trPhase]
  push_cast
  rfl

theorem trKernel_zero {n : Nat} {tones : List Nat} (h : tones ≠ []) : trKernel n tones 0 = 1 := by
  have hlen : (tones.length : ℂ) ≠ 0 := by simpa using h
  simp [trKernel, hlen]

/-- A sum of phases is at most their number in magnitude. -/
theorem norm_sum_trPhase_le (n : Nat) (tones : List Nat) (m : Nat) :
    ‖(tones.map fun k : Nat => trPhase n ((k : Int) * (m : Int))).sum‖ ≤ tones.length := by
  induction tones with
  | nil => simp
  | cons k tones ih =>
    rw [List.map_cons, List.sum_cons, List.length_cons, Nat.cast_add_one, add_comm (tones.length : ℝ)]
    exact norm_add_le_of_le (norm_trPhase n _).le ih

theorem norm_trKernel_le {n : Nat} {tones : List Nat} (h : tones ≠ []) (m : Nat) : ‖trKernel n tones m‖ ≤ 1 := by
  have hlen : (0 : ℝ) < tones.length := by exact_mod_cast List.length_pos_of_ne_nil h
  rw [trKernel, norm_mul, norm_div, norm_one, Complex.norm_natCast, one_div, inv_mul_le_one₀ hlen]
  exact norm_sum_trPhase_le n tones m

/-- Settles O56: every phase has magnitude 1, so their sum is within their number, and at 0 each phase is 1. -/
theorem kernelIsAMeanOfUnitVectors : Obligations.KernelIsAMeanOfUnitVectors := by
  unfold Obligations.KernelIsAMeanOfUnitVectors
  intro n tones h
  refine ⟨fun m => ?_, fun k m => ?_, trKernel_zero h, norm_trKernel_le h⟩
  · simp only [trKernel, trPhase_natCast_mul]
  · rw [← trPhase_natCast_mul, norm_trPhase]

/-! ## The peak and the clamp (R249) -/

theorem trPeakIndex_lt (mag : Nat → ℝ) {k : Nat} (hk : 0 < k) : trPeakIndex mag k < k := by
  induction k with
  | zero => exact absurd hk (lt_irrefl 0)
  | succ k ih =>
    rw [trPeakIndex]
    split
    · exact k.lt_succ_self
    · rcases k.eq_zero_or_pos with rfl | hk
      · exact Nat.zero_lt_one
      · exact (ih hk).trans k.lt_succ_self

theorem le_trPeakIndex (mag : Nat → ℝ) {k i : Nat} (hi : i < k) : mag i ≤ mag (trPeakIndex mag k) := by
  induction k with
  | zero => exact absurd hi i.not_lt_zero
  | succ k ih =>
    rw [trPeakIndex]
    rcases Nat.lt_succ_iff_lt_or_eq.1 hi with hi | rfl <;> split
    case inl.isTrue hgreater => exact (ih hi).trans hgreater.le
    case inl.isFalse => exact ih hi
    case inr.isTrue => exact le_rfl
    case inr.isFalse hnot => exact not_lt.1 hnot

/-- The peak is at the least of its indices. -/
theorem lt_of_lt_trPeakIndex (mag : Nat → ℝ) {k i : Nat} (hi : i < trPeakIndex mag k) :
    mag i < mag (trPeakIndex mag k) := by
  induction k with
  | zero => exact absurd hi i.not_lt_zero
  | succ k ih =>
    rw [trPeakIndex] at hi ⊢
    split at hi
    case isTrue hgreater =>
      rw [if_pos hgreater]
      exact (le_trPeakIndex mag hi).trans_lt hgreater
    case isFalse hnot =>
      rw [if_neg hnot]
      exact ih hi

theorem trLeast_le_bound (bound : ℝ) (f : Nat → ℝ) (k : Nat) : trLeast bound f k ≤ bound := by
  induction k with
  | zero => exact le_rfl
  | succ k ih => exact (min_le_left _ _).trans ih

theorem trLeast_le (bound : ℝ) (f : Nat → ℝ) {k a : Nat} (ha : a < k) : trLeast bound f k ≤ f a := by
  induction k with
  | zero => exact absurd ha a.not_lt_zero
  | succ k ih =>
    rcases Nat.lt_succ_iff_lt_or_eq.1 ha with ha | rfl
    · exact (min_le_left _ _).trans (ih ha)
    · exact min_le_right _ _

theorem le_trLeast {bound x : ℝ} {f : Nat → ℝ} {k : Nat} (hbound : x ≤ bound) (hf : ∀ a < k, x ≤ f a) :
    x ≤ trLeast bound f k := by
  induction k with
  | zero => exact hbound
  | succ k ih => exact le_min (ih fun a ha => hf a (Nat.lt_succ_of_lt ha)) (hf k k.lt_succ_self)

/-! ## A measured loop state (R249, R252) -/

@[simp] theorem trStart_r (a : Nat) : trStart.r a = 0 := rfl
@[simp] theorem trStart_c (i : Nat) : trStart.c i = 0 := rfl

section
variable (q : TrProblem) (s : TrLoop)

@[simp] theorem trMeasure_r : (trMeasure q s).r = s.r := rfl
@[simp] theorem trMeasure_c : (trMeasure q s).c = s.c := rfl
@[simp] theorem trMeasure_ctemp (i : Nat) : (trMeasure q s).ctemp i = q.x i + s.c i := rfl
@[simp] theorem trMeasure_magnitude (i : Nat) : (trMeasure q s).magnitude i = ‖q.x i + s.c i‖ := rfl

@[simp] theorem trCorrect_r : (trCorrect q s).r = trRNew q s := rfl
@[simp] theorem trCorrect_c : (trCorrect q s).c = trCNew q s := rfl

theorem vClip_le_trThreshold : q.vClip ≤ trThreshold q := by
  rw [trThreshold]
  split
  · exact le_add_of_nonneg_right (by positivity)
  · exact le_rfl

/-- The exit test asks that every sample be within the threshold. -/
theorem trExits_iff (hn : 0 < q.n) : trExits q s ↔ ∀ i < q.n, s.magnitude i ≤ trThreshold q :=
  ⟨fun h _ hi => (le_trPeakIndex s.magnitude hi).trans h, fun h => h _ (trPeakIndex_lt s.magnitude hn)⟩

end

/-! ## The whole loop -/

/-- What measuring and correcting keep, the loop keeps. -/
theorem trIterate_induction {q : TrProblem} {P : TrLoop → Prop} (hmeasure : ∀ s, P s → P (trMeasure q s))
    (hcorrect : ∀ s, P s → ¬ trExits q (trMeasure q s) → P (trCorrect q (trMeasure q s))) (k : Nat) {s : TrLoop}
    (hs : P s) : P (trIterate q k s) := by
  induction k generalizing s with
  | zero => exact hs
  | succ k ih =>
    rw [trIterate]
    split
    case isTrue => exact hmeasure s hs
    case isFalse hexit => exact ih (hcorrect s hs hexit)

/-- Without a correction the loop leaves the buffer at zero, and the output is the input (R253). -/
theorem trOutput_of_no_correction {q : TrProblem} (h : q.numIter = 0 ∨ trExits q (trMeasure q trStart)) (i : Nat) :
    trOutput q i = q.x i := by
  have hc : (trRun q).c = 0 := by
    rw [trRun]
    rcases h with h | h
    · rw [h]
      rfl
    · cases q.numIter with
      | zero => rfl
      | succ k =>
        rw [trIterate, if_pos h]
        rfl
  rw [trOutput, hc, Pi.zero_apply, add_zero]

/-! ## The correction as a signal of the reserved tones (R248) -/

/-- The signal whose reserved tones have the amplitudes `r`. -/
noncomputable def trSignal (n : Nat) (tones : List Nat) (r : Nat → ℂ) (i : Nat) : ℂ :=
  (1 / (tones.length : ℂ)) *
    ((List.range tones.length).map fun a => r a * trPhase n ((tones.getD a 0 : Int) * (i : Int))).sum

theorem trSignal_zero (n : Nat) (tones : List Nat) (i : Nat) : trSignal n tones 0 i = 0 := by simp [trSignal]

theorem map_range_getD {α : Type} (tones : List Nat) (f : Nat → α) :
    (List.range tones.length).map (fun a => f (tones.getD a 0)) = tones.map f := by
  refine List.ext_getElem (by simp) fun a h _ => ?_
  rw [List.length_map, List.length_range] at h
  simp [h]

/-- The kernel shifted to `m` is the signal of amplitudes that all reach their peak at `m`. -/
theorem trSignal_phases {n : Nat} (hn : 0 < n) (tones : List Nat) (m i : Nat) :
    trSignal n tones (fun a => trPhase n (-((tones.getD a 0 : Int) * (m : Int)))) i =
      trKernel n tones (((i : Int) - (m : Int)) % (n : Int)).toNat := by
  have hshift : ((((i : Int) - m) % n).toNat : Int) = ((i : Int) - m) % n :=
    Int.toNat_of_nonneg (Int.emod_nonneg _ (by exact_mod_cast hn.ne'))
  have hphase (k : Nat) :
      trPhase n (-((k : Int) * m)) * trPhase n ((k : Int) * i) = trPhase n ((k : Int) * (((i : Int) - m) % n)) := by
    rw [trPhase_mul_emod hn, ← trPhase_add]
    congr 1
    ring
  rw [trSignal, trKernel, hshift, ← map_range_getD tones]
  simp only [hphase]

/-- A step along other amplitudes moves the signal by the step along theirs. -/
theorem trSignal_sub_mul (n : Nat) (tones : List Nat) (r w : Nat → ℂ) (z : ℂ) (i : Nat) :
    trSignal n tones (fun a => r a - z * w a) i = trSignal n tones r i - z * trSignal n tones w i := by
  have hterm (a : Nat) (e : ℂ) : (r a - z * w a) * e = r a * e + -z * (w a * e) := by ring
  simp only [trSignal, hterm, List.sum_map_add, List.sum_map_mul_left]
  ring

/-- A correction moves the buffer and the amplitudes together (R249). -/
theorem trCNew_eq_trSignal {q : TrProblem} (hn : 0 < q.n) {s : TrLoop} (hs : ∀ i, s.c i = trSignal q.n q.tones s.r i)
    (i : Nat) : trCNew q s i = trSignal q.n q.tones (trRNew q s) i := by
  rw [trCNew, hs, ← trSignal_phases hn, ← trSignal_sub_mul]
  rfl

/-- Settles O57: zero amplitudes have the zero signal, and every correction moves both together. -/
theorem correctionHoldsOnlyReservedTones : Obligations.CorrectionHoldsOnlyReservedTones := by
  unfold Obligations.CorrectionHoldsOnlyReservedTones
  intro q i hn
  exact trIterate_induction (P := fun s => ∀ i, s.c i = trSignal q.n q.tones s.r i) (fun _ hs => hs)
    (fun s hs _ => trCNew_eq_trSignal hn (s := trMeasure q s) hs) q.numIter
    (fun i => (trSignal_zero q.n q.tones i).symm) i

/-! ## One correction (R249, R251) -/

/-- The amplitudes of the reserved tones are within the hard limit. -/
def TonesWithinAMax (q : TrProblem) (s : TrLoop) : Prop :=
  ∀ a, a < q.tones.length → ‖s.r a‖ ≤ trAMax q.tones.length q.carriers

theorem trAMax_nonneg (nTr carriers : Nat) : 0 ≤ trAMax nTr carriers := by
  rw [trAMax]
  positivity

theorem abs_re_le_sqrt {v : ℂ} {A : ℝ} (hv : ‖v‖ ≤ A) : |v.re| ≤ √(A ^ 2 - v.im ^ 2) := by
  refine Real.abs_le_sqrt ?_
  rw [← Complex.sq_norm_sub_sq_im]
  exact sub_le_sub_right (pow_le_pow_left₀ (norm_nonneg v) hv 2) _

/-- A number within a disc stays in it when it moves left by no more than to the disc's far edge (R251). -/
theorem norm_sub_ofReal_le {v : ℂ} {A t : ℝ} (hv : ‖v‖ ≤ A) (h0 : 0 ≤ t) (ht : t ≤ v.re + √(A ^ 2 - v.im ^ 2)) :
    ‖v - t‖ ≤ A := by
  have hA : 0 ≤ A := (norm_nonneg v).trans hv
  have hdisc : 0 ≤ A ^ 2 - v.im ^ 2 :=
    sub_nonneg.2 (sq_le_sq' (neg_le_of_abs_le ((Complex.abs_im_le_norm v).trans hv)) ((Complex.im_le_norm v).trans hv))
  have hwithin := abs_le.1 (abs_re_le_sqrt hv)
  have hmoved : |v.re - t| ≤ √(A ^ 2 - v.im ^ 2) := abs_le.2 ⟨by linarith, by linarith⟩
  have hre : (v - t).re = v.re - t := by simp
  have him : (v - t).im = v.im := by simp
  refine (sq_le_sq₀ (norm_nonneg _) hA).1 ((sub_le_sub_iff_right (v.im ^ 2)).1 ?_)
  calc ‖v - t‖ ^ 2 - v.im ^ 2
    _ = |v.re - t| ^ 2 := by rw [← him, Complex.sq_norm_sub_sq_im, hre, sq_abs]
    _ ≤ √(A ^ 2 - v.im ^ 2) ^ 2 := pow_le_pow_left₀ (abs_nonneg _) hmoved 2
    _ = A ^ 2 - v.im ^ 2 := Real.sq_sqrt hdisc

section
variable {q : TrProblem} {s : TrLoop} (hclip : 0 < q.vClip) (hexit : ¬ trExits q (trMeasure q s))
include hexit

/-- A peak that does not pass the exit test is above the clip target. -/
theorem vClip_lt_peak : q.vClip < (trMeasure q s).magnitude (trPeak q (trMeasure q s)) :=
  (vClip_le_trThreshold q).trans_lt (not_le.1 hexit)

include hclip

theorem norm_trUnit : ‖trUnit q (trMeasure q s)‖ = 1 := by
  have hpeak := hclip.trans (vClip_lt_peak hexit)
  rw [trUnit, norm_div, Complex.norm_of_nonneg hpeak.le]
  exact div_self hpeak.ne'

/-- The peak's sample, of its magnitude and its phase. -/
theorem peak_mul_trUnit :
    ((trMeasure q s).magnitude (trPeak q (trMeasure q s)) : ℂ) * trUnit q (trMeasure q s) =
      q.x (trPeak q (trMeasure q s)) + s.c (trPeak q (trMeasure q s)) :=
  mul_div_cancel₀ _ (Complex.ofReal_ne_zero.2 (hclip.trans (vClip_lt_peak hexit)).ne')

theorem norm_trRotated (a : Nat) : ‖trRotated q (trMeasure q s) a‖ = ‖s.r a‖ := by
  simp [trRotated, norm_trUnit hclip hexit]

/-- In the peak's frame a correction moves every amplitude left by the step. -/
theorem trRNew_eq_rotated (a : Nat) :
    trRNew q (trMeasure q s) a =
      (trRotated q (trMeasure q s) a - trAlpha q (trMeasure q s)) * trUnit q (trMeasure q s) *
        trPhase q.n (-((q.tones.getD a 0 : Int) * (trPeak q (trMeasure q s) : Int))) := by
  have hunit : (starRingEnd ℂ) (trUnit q (trMeasure q s)) * trUnit q (trMeasure q s) = 1 := by
    rw [Complex.conj_mul', norm_trUnit hclip hexit]
    norm_num
  have hphase :
      trPhase q.n ((q.tones.getD a 0 : Int) * (trPeak q (trMeasure q s) : Int)) *
        trPhase q.n (-((q.tones.getD a 0 : Int) * (trPeak q (trMeasure q s) : Int))) = 1 := by
    rw [← trPhase_add, add_neg_cancel, trPhase_zero]
  rw [trRNew, trRotated, trMeasure_r]
  linear_combination -s.r a * (starRingEnd ℂ) (trUnit q (trMeasure q s)) * trUnit q (trMeasure q s) * hphase - s.r a * hunit

variable (htones : TonesWithinAMax q s)
include htones

theorem trAlpha_nonneg : 0 ≤ trAlpha q (trMeasure q s) := by
  refine le_trLeast (sub_nonneg.2 (vClip_lt_peak hexit).le) fun a ha => ?_
  have hre := abs_re_le_sqrt ((norm_trRotated hclip hexit a).trans_le (htones a ha))
  rw [trAlphaMax]
  linarith [neg_le_of_abs_le hre]

/-- The clamp keeps the tones within the hard limit. -/
theorem tonesWithinAMax_trCorrect : TonesWithinAMax q (trCorrect q (trMeasure q s)) := by
  intro a ha
  rw [trCorrect_r, trRNew_eq_rotated hclip hexit, norm_mul, norm_mul, norm_trPhase, norm_trUnit hclip hexit, mul_one,
    mul_one]
  exact norm_sub_ofReal_le ((norm_trRotated hclip hexit a).trans_le (htones a ha)) (trAlpha_nonneg hclip hexit htones)
    (trLeast_le _ _ ha)

end

/-- The kernel is 1 at 0, so the sample at the peak loses the step along its own phase. -/
theorem norm_peak_trCorrect {q : TrProblem} {s : TrLoop} (hclip : 0 < q.vClip) (hexit : ¬ trExits q (trMeasure q s))
    (hne : q.tones ≠ []) :
    ‖q.x (trPeak q (trMeasure q s)) + (trCorrect q (trMeasure q s)).c (trPeak q (trMeasure q s))‖ =
      (trMeasure q s).magnitude (trPeak q (trMeasure q s)) - trAlpha q (trMeasure q s) := by
  have hle : trAlpha q (trMeasure q s) ≤ (trMeasure q s).magnitude (trPeak q (trMeasure q s)) :=
    (trLeast_le_bound _ _ _).trans (sub_le_self _ hclip.le)
  rw [trCorrect_c, trCNew, sub_self, Int.zero_emod, Int.toNat_zero, trKernel_zero hne, mul_one, trMeasure_c, ← add_sub_assoc,
    ← peak_mul_trUnit hclip hexit, ← sub_mul, norm_mul, norm_trUnit hclip hexit, mul_one, ← Complex.ofReal_sub,
    Complex.norm_of_nonneg (sub_nonneg.2 hle)]

/-- Settles O59: the peak by its search, the step by the clamp, and the drop by the kernel's 1 at 0. -/
theorem peakSampleDropsByTheStep : Obligations.PeakSampleDropsByTheStep := by
  unfold Obligations.PeakSampleDropsByTheStep
  intro q s hclip hn hne htones hexit
  exact ⟨trPeakIndex_lt _ hn, fun i hi => le_trPeakIndex (trMeasure q s).magnitude hi,
    fun i hi => lt_of_lt_trPeakIndex (trMeasure q s).magnitude hi, trAlpha_nonneg hclip hexit htones,
    trLeast_le_bound _ _ _, norm_peak_trCorrect hclip hexit hne, tonesWithinAMax_trCorrect hclip hexit htones⟩

/-- Settles O58: the amplitudes start at zero, and every correction keeps them within the hard limit. -/
theorem toneMagnitudeWithinAMax : Obligations.ToneMagnitudeWithinAMax := by
  unfold Obligations.ToneMagnitudeWithinAMax
  intro q a hclip ha
  have hstart : TonesWithinAMax q trStart := fun a _ => by
    rw [trStart_r, norm_zero]
    exact trAMax_nonneg _ _
  exact trIterate_induction (P := TonesWithinAMax q) (fun _ hs => hs)
    (fun _ hs hexit => tonesWithinAMax_trCorrect hclip hexit hs) q.numIter hstart a ha

end Sys2Proof.Machine
end

section
/-! SUPPORT. Unit 6 against its reference (46_papr_tr.md R242 to R245, R252, R253): the pass-through of the other modes, the
exit test in whole numbers, and what a reduced symbol leaves as. -/

namespace Sys2Proof.Machine

open Sys2Proof.Config

/-! ## The other modes (R242, R243) -/

/-- The blocks from the front of a queue are its beginning. -/
theorem flatMap_blockAt {α : Type} (q : List α) (len n : Nat) :
    (List.range n).flatMap (blockAt q len) = q.take (n * len) := by
  induction n with
  | zero => simp
  | succ n ih => rw [flatMap_range_succ, ih, blockAt, Nat.succ_mul, List.take_add]

section
variable {u : TrUnit} (hmode : u.der.mode ≠ .tr)
include hmode

theorem trReduces_of_mode_ne (k : Nat) : trReduces u k = false := decide_eq_false fun h => hmode h.1

theorem trSymbol_of_mode_ne (p : Params) : trSymbol p u = blockAt u.inq u.der.n := by
  funext k
  rw [trSymbol, trReduces_of_mode_ne hmode]
  rfl

theorem trReducedBefore_of_mode_ne (k : Nat) : trReducedBefore u k = 0 := by
  simp [trReducedBefore, trReduces_of_mode_ne hmode]

/-- No firing writes the scratch. -/
theorem trFire_iterate_scratch (p : Params) (n : Nat) : ((trFire p)^[n] u).scratch = u.scratch := by
  induction n generalizing u with
  | zero => rfl
  | succ n ih =>
    have hfire : (trFire p u).der = u.der ∧ (trFire p u).scratch = u.scratch := by
      simp [trFire, trEngaged, beq_false_of_ne hmode]
    obtain ⟨hder, hscratch⟩ := hfire
    rw [Function.iterate_succ_apply, ih (by rwa [hder]), hscratch]

end

/-- Settles O53: no symbol is reduced, so each firing passes its block on, and neither the scratch nor the count of free
values moves. -/
theorem trOtherModesPassThrough : Obligations.TrOtherModesPassThrough := by
  unfold Obligations.TrOtherModesPassThrough
  intro n s hvalid hindex hb hmode hlen
  obtain ⟨scratch, hfire⟩ := trFire_iterate s.params (hindex.2 hb) (tr_symbols_le hvalid hb) n
  have hscratch : s.tr.scratch = scratch := by
    rw [← trFire_iterate_scratch hmode s.params n, hfire]
  rw [show exec (.trSym n) s = execTrSym n s from rfl, execTrSym, decide_eq_false (Nat.not_lt.2 hlen),
    streaming_of_ready hb, hfire, trSymbol_of_mode_ne hmode, flatMap_blockAt, trReducedBefore_of_mode_ne hmode, ← hscratch]
  rfl

/-! ## The exit test in whole numbers (R252) -/

/-- The test on squares in units of `2^-149` is the test on the magnitude. -/
theorem magnitudeWithin_iff {c : Cell} (hc : (cellUnits c).isSome = true) {num : Int} (hnum : 0 ≤ num) {den : Nat}
    (hden : 0 < den) : magnitudeWithin num den c = true ↔ ‖cellValue c‖ ≤ num / den / 2 ^ 149 := by
  obtain ⟨⟨a, b⟩, hab⟩ := Option.isSome_iff_exists.1 hc
  have hden' : (0 : ℝ) < den := by exact_mod_cast hden
  have hnum' : (0 : ℝ) ≤ num := by exact_mod_cast hnum
  have hnorm : ‖cellValue c‖ ^ 2 = ((a : ℝ) ^ 2 + (b : ℝ) ^ 2) / (2 ^ 149) ^ 2 := by
    rw [Complex.sq_norm, cellValue, hab, Complex.normSq_mk]
    ring
  rw [← sq_le_sq₀ (norm_nonneg _) (by positivity), hnorm, div_pow, div_pow, div_le_div_iff_of_pos_right (by positivity),
    le_div_iff₀' (by positivity), magnitudeWithin, hab]
  simp only [decide_eq_true_eq]
  exact_mod_cast Iff.rfl

/-- The first test asks that every sample of the symbol be within the reference's threshold. -/
theorem trExitsAtOnce_iff {p : Params} {d : TrDerived} {v : Int} (hv : d.vClip = some v) (hpos : 0 < v) (l : Nat)
    {x : List Cell} (hx : ∀ c ∈ x, (cellUnits c).isSome = true) :
    trExitsAtOnce p.trRelaxedExit v x = true ↔ ∀ c ∈ x, ‖cellValue c‖ ≤ trThreshold (trProblemOf p d l x) := by
  rw [trExitsAtOnce, trThreshold]
  simp only [trProblemOf, hv, Option.getD_some]
  split
  case isTrue =>
    have hbound : ((trExitMarginDen * v + 2 ^ 149 : Int) : ℝ) / trExitMarginDen / 2 ^ 149 =
        v / 2 ^ 149 + 1 / trExitMarginDen := by
      norm_num [trExitMarginDen]
      ring
    rw [List.all_eq_true, ← hbound]
    exact forall₂_congr fun c hc => magnitudeWithin_iff (hx c hc) (by positivity) (by decide)
  case isFalse =>
    rw [List.all_eq_true]
    refine forall₂_congr fun c hc => ?_
    rw [magnitudeWithin_iff (hx c hc) hpos.le Nat.one_pos, Nat.cast_one, div_one]

/-- A statement about every entry is one about every index. -/
theorem forall_mem_iff_getD {α : Type} {P : α → Prop} (x : List α) (dflt : α) :
    (∀ c ∈ x, P c) ↔ ∀ i < x.length, P (x.getD i dflt) := by
  rw [List.forall_mem_iff_forall_getElem]
  exact forall₂_congr fun i hi => by rw [List.getD_eq_getElem _ _ hi]

/-- What a build in mode `PAPR_TR` leaves: a symbol has a sample, and the clip target is positive (R241). -/
theorem n_pos_and_clip_pos_of_trDerive {t : Tables} {p : Params} {u : TrRegs} {d : TrDerived} (hd : trDerive t p u = some d)
    (hmode : paprModeOf p.enums u.paprMode = .tr) : 0 < d.n ∧ ∃ v, d.vClip = some v ∧ 0 < v := by
  obtain ⟨k, geo, -, htones, rfl⟩ := (trDerive_eq_some_iff ..).1 hd
  have hok := htones hmode
  obtain ⟨tone, htone⟩ := List.exists_mem_of_ne_nil _ hok.nonempty
  exact ⟨Nat.zero_lt_of_lt (hok.below tone htone), hok.clip⟩

/-- The unit's test before its first correction is the reference's. -/
theorem trNoCorrection_iff {p : Params} {d : TrDerived} {v : Int} (hv : d.vClip = some v) (hpos : 0 < v) (l : Nat)
    {x : List Cell} (hn : 0 < d.n) (hlen : x.length = d.n) (hx : ∀ c ∈ x, (cellUnits c).isSome = true) :
    trNoCorrection p d x = true ↔
      d.numIter = 0 ∨ trExits (trProblemOf p d l x) (trMeasure (trProblemOf p d l x) trStart) := by
  rw [trNoCorrection, Bool.or_eq_true, beq_iff_eq, hv, Option.getD_some, trExitsAtOnce_iff hv hpos l hx,
    forall_mem_iff_getD x ⟨0#32, 0#32⟩, trExits_iff _ _ hn, hlen]
  simp only [trMeasure_magnitude, trStart_c, add_zero]
  rfl

/-! ## What leaves (R253) -/

theorem trReduce_of_finite {p : Params} {d : TrDerived} {x : List Cell} (hx : ∀ c ∈ x, (cellUnits c).isSome = true)
    (use l : Nat) :
    trReduce use p d l x = if trNoCorrection p d x then trUncorrected use d x else trCorrected use p d l x :=
  if_pos (List.all_eq_true.2 hx)

theorem length_trHeldCells (use : Nat) (vec : TrVector) (k : Nat) (isExact : Nat → ℂ → Prop) :
    (trHeldCells use vec k isExact).length = k := by simp [trHeldCells]

/-- A cell that holds an exact complex number holds its two parts. -/
theorem getElem?_trHeldCells_eq (use : Nat) (vec : TrVector) {k i : Nat} (hi : i < k) (z : Nat → ℂ) :
    (trHeldCells use vec k fun i w => w = z i)[i]? =
      some ⟨sampleOf use ⟨vec, i, false⟩ fun y => y = (z i).re, sampleOf use ⟨vec, i, true⟩ fun y => y = (z i).im⟩ := by
  simp [trHeldCells, hi]

/-- Settles O54: the unit's test in whole numbers is the reference's, and what leaves is read off either case. -/
theorem trReductionFollowsTheReference : Obligations.TrReductionFollowsTheReference := by
  unfold Obligations.TrReductionFollowsTheReference
  intro use t p u d l x hd hmode hlen hx q
  obtain ⟨hn, v, hv, hpos⟩ := n_pos_and_clip_pos_of_trDerive hd hmode
  have htest : trNoCorrection p d x = true ↔ d.numIter = 0 ∨ trExits q (trMeasure q trStart) :=
    trNoCorrection_iff hv hpos l hn hlen hx
  rw [trReduce_of_finite hx]
  refine ⟨fun hnone => ?uncorrected, fun hiter hexit => ?corrected⟩
  case uncorrected =>
    rw [if_pos (htest.2 hnone)]
    exact ⟨rfl, fun i _ => trOutput_of_no_correction hnone i⟩
  case corrected =>
    rw [if_neg (mt htest.1 (not_or.2 ⟨hiter, hexit⟩)), trCorrected]
    refine ⟨length_trHeldCells .., fun i hi c hc => ?_⟩
    rw [getElem?_trHeldCells_eq use .y hi (trOutput q), Option.some.injEq] at hc
    subst hc
    exact ⟨rfl, rfl⟩

end Sys2Proof.Machine
end

section
/-! SUPPORT. The errors of 60_exceptions.md that need no configuration or item to go wrong: a streaming command of a unit
that is not built (R297) or short of items (R295), and a write to a register that cannot be written (R299). -/

namespace Sys2Proof.Machine

/-! ## Raising an error -/

/-- Settles O11: `raise` is the effect of R292, and the codes and flags are those of the table of R291. -/
theorem raiseRecordsTheFirstError : Obligations.RaiseRecordsTheFirstError := by
  unfold Obligations.RaiseRecordsTheFirstError
  exact ⟨raised_raise, by decide⟩

/-! ## Units that are not built -/

/-- A command that needs a built unit goes through the streaming skeleton (40_system_commands.md R111), with its own checks
and firings. -/
theorem exec_of_streams (s : State) : ∀ {i : Instr} {u : UnitId}, i.streams = some u →
    ∃ short bad fire, exec i s = .next (streaming u (encode i) short bad fire s)
  | .bchEnc _, _, rfl => ⟨_, _, _, rfl⟩
  | .ldpcEnc _, _, rfl => ⟨_, _, _, rfl⟩
  | .bilPerm _, _, rfl => ⟨_, _, _, rfl⟩
  | .fmL1b, _, rfl => ⟨_, _, _, rfl⟩
  | .fmMap _, _, rfl => ⟨_, _, _, rfl⟩
  | .fiSym _, _, rfl => ⟨_, _, _, rfl⟩
  | .trSym _, _, rfl => ⟨_, _, _, rfl⟩

/-- Settles O12: the BUILT flag is the skeleton's first check, whatever the others would say. -/
theorem unbuiltUnitRaisesNotBuilt : Obligations.UnbuiltUnitRaisesNotBuilt := by
  unfold Obligations.UnbuiltUnitRaisesNotBuilt
  intro i u s hi hb
  obtain ⟨short, bad, fire, hexec⟩ := exec_of_streams s hi
  refine ⟨_, hexec, ?_⟩
  rw [streaming_of_not_built hb]
  exact raised_raise ..

/-! ## Queues that hold too few items -/

/-- A built unit with too few items in a queue records `Underrun`, whatever the items are. -/
theorem streaming_raised_underrun {u : UnitId} {w : Word} {short bad : Bool} {fire : State → State} {s : State}
    (hb : s.isBuilt u = true) (hshort : short = true) :
    Raised .underrun u.number w s (streaming u w short bad fire s) := by
  rw [hshort, streaming_of_short hb]
  exact raised_raise ..

/-- Unit 4 is short of cells when one of its three queues is. -/
theorem fmShort_eq_true {n : Nat} {u : FmUnit} :
    fmShort n u = true ↔
      u.l1bIn.length < n * u.der.l1bCells ∨ u.l1dIn.length < n * u.der.l1dCells ∨
        u.plpIn.length < n * u.der.plpCells := by
  simp [fmShort, or_assoc]

/-- Settles O13: the six commands differ in their unit and its need alone. The need of unit 5 is a sum over the next symbols
only for an index inside a frame of a built geometry. -/
theorem shortQueueRaisesUnderrun : Obligations.ShortQueueRaisesUnderrun := by
  unfold Obligations.ShortQueueRaisesUnderrun
  intro n s
  refine ⟨fun hb hlen => ⟨_, rfl, streaming_raised_underrun (u := .bch) hb (decide_eq_true hlen)⟩,
    fun hb hlen => ⟨_, rfl, streaming_raised_underrun (u := .ldpc) hb (decide_eq_true hlen)⟩,
    fun hb hlen => ⟨_, rfl, streaming_raised_underrun (u := .bil) hb (decide_eq_true hlen)⟩,
    fun hb hlen => ⟨_, rfl, streaming_raised_underrun (u := .fm) hb (fmShort_eq_true.2 hlen)⟩,
    fun hvalid hindex hb hlen => ⟨_, rfl, streaming_raised_underrun (u := .fi) hb (decide_eq_true ?_)⟩,
    fun hb hlen => ⟨_, rfl, streaming_raised_underrun (u := .tr) hb (decide_eq_true hlen)⟩⟩
  rwa [fiNeed_eq_cellsBefore n (hindex.1 hb) (fi_symbols_le hvalid hb)]

/-! ## Registers that cannot be written -/

/-- The index of a register of kind `RO` (10_state.md R23). -/
def RoReg.index : RoReg → BitVec 8
  | .status => 0x01#8
  | .errinfo => 0x02#8
  | .errval => 0x03#8
  | .bchBlkcnt => 0x13#8
  | .ldpcBlkcnt => 0x29#8
  | .bilBlkcnt => 0x33#8
  | .fmFramecnt => 0x4C#8
  | .fiSymidx => 0x89#8
  | .fiFramecnt => 0x8A#8
  | .trSymidx => 0xAC#8
  | .trFramecnt => 0xAD#8

theorem regAt_index (r : RoReg) : regAt r.index = .ro r := by cases r <;> rfl

theorem eq_index_of_regAt_ro {i : BitVec 8} {r : RoReg} (h : regAt i = .ro r) : i = r.index :=
  index_unique (h.trans (regAt_index r).symm) (by simp [h])

theorem eq_zero_of_regAt_cmd {i : BitVec 8} (h : regAt i = .cmd) : i = 0x00#8 :=
  index_unique (h.trans (show RegSel.cmd = regAt 0x00#8 from rfl)) (by simp [h])

section
variable {i : BitVec 8} (hrw : isRwIndex i = false) (hcmd : i ≠ 0x00#8)
include hrw hcmd

/-- An index that is neither `CMD` nor of kind `RW` names a read-only register or none. -/
theorem regAt_of_not_writable : (∃ r, regAt i = .ro r) ∨ regAt i = .unimplemented := by
  cases h : regAt i with
  | cmd => exact absurd (eq_zero_of_regAt_cmd h) hcmd
  | rw r => exact absurd ((isRwIndex_iff i).2 ⟨r, h⟩) (Bool.eq_false_iff.1 hrw)
  | ro r => exact .inl ⟨r, rfl⟩
  | unimplemented => exact .inr rfl

/-- A write to such an index drops the value and records the index. -/
theorem regWrite_of_not_writable (v : Word) (s : State) : regWrite i v s = raise .badReg 0#4 (i.setWidth 32) s := by
  obtain ⟨r, h⟩ | h := regAt_of_not_writable hrw hcmd
  · exact regWrite_of_ro h v s
  · exact regWrite_of_unimplemented h v s

theorem step_regWrite_of_not_writable {s : State} {v : Word} {rest : List HostAction}
    (hs : s.host.script = .regWrite i v :: rest) :
    step s = .next (raise .badReg 0#4 (i.setWidth 32) (s.withScript rest)) := by
  rw [step_of_action hs (if_neg hcmd), perform, regWrite_of_not_writable hrw hcmd]

/-- An index that the map does not list reads as 0 (10_state.md R22). -/
theorem regRead_of_not_ro (h : ∀ r : RoReg, i ≠ r.index) (s : State) : regRead s i = 0#32 := by
  obtain ⟨r, hr⟩ | hnone := regAt_of_not_writable hrw hcmd
  · exact absurd (eq_index_of_regAt_ro hr) (h r)
  · rw [regRead, hnone]

end

/-- Settles O9: such a write raises `BadReg` and a read answers with the register; the read-only registers are those
listed. -/
theorem badRegisterWriteIsRecorded : Obligations.BadRegisterWriteIsRecorded := by
  unfold Obligations.BadRegisterWriteIsRecorded
  intro s i rest hrw hcmd
  refine ⟨fun v hs => ⟨_, step_regWrite_of_not_writable hrw hcmd hs, raised_raise ..⟩, registerReads.1 s i rest, rfl,
    fun hi => regRead_of_not_ro hrw hcmd (fun r h => hi ?_) s⟩
  rw [h]
  cases r <;> decide

end Sys2Proof.Machine
end
